-- ==== Sys2Proof/Word.lean ====
section
/-! DEFINITION. The data of every interface (00_scope R8, R9; 30_encoding R60). -/

namespace Sys2Proof

/-- A byte, an unsigned integer in [0, 255] (00_scope R8); formats TXB and WIRE (30_encoding R60). -/
abbrev Byte := BitVec 8

/-- A CRC value, an unsigned integer in [0, 65535] (00_scope R8). -/
abbrev Crc := BitVec 16

/-- The receiver decode word RXW: bit 8 is `rx.esc` before the byte, bits 7:0 the wire byte (30_encoding R60). -/
abbrev RxWord := BitVec 9

end Sys2Proof
end

