-- ==== Sys2Proof/Syntax.lean ====
section
/-! DEFINITION. The instructions: one constructor per row of spec/opcode_table.json. The hardware has no instruction
set; its "instructions" are the receiver's five decode classes, the transmitter's stuffing classes and the three
interface operations (30_encoding R61, R62, R68). -/

namespace Sys2Proof

/-- The rows of spec/opcode_table.json. -/
inductive Instr
  /-- `RX.FLAG`, RXW = 0x07E (41_frame_receiver R101). -/
  | rxFlag
  /-- `RX.FLAG_ABORT`, RXW = 0x17E (41_frame_receiver R102). -/
  | rxFlagAbort
  /-- `RX.ESC`, RXW = 0x07D (41_frame_receiver R103). -/
  | rxEsc
  /-- `RX.ESCDATA`, RXW = {1, v}, v any value except 0x7E (41_frame_receiver R106). -/
  | rxEscData (v : Byte)
  /-- `RX.DATA`, RXW = {0, v}, v any value except 0x7D and 0x7E (41_frame_receiver R105). -/
  | rxData (v : Byte)
  /-- `TX.PUT_ESCAPED.ESC`, TXB = 0x7D (42_frame_transmitter R135). -/
  | txPutEscapedEsc
  /-- `TX.PUT_ESCAPED.FLAG`, TXB = 0x7E (42_frame_transmitter R135). -/
  | txPutEscapedFlag
  /-- `TX.PUT_LITERAL`, TXB = b, b any value except 0x7D and 0x7E (42_frame_transmitter R135). -/
  | txPutLiteral (b : Byte)
  /-- `CRC.UPDATE`, operation with two operands and no bit encoding (40_crc_engine R80). -/
  | crcUpdate (crc : Crc) (byte : Byte)
  /-- `RX.ON_BYTE`, operation on one wire byte (41_frame_receiver R100). -/
  | rxOnByte (v : Byte)
  /-- `TX.SEND_FRAME`, operation on a byte sequence of any length (42_frame_transmitter R130). -/
  | txSendFrame (payload : List Byte)
  deriving DecidableEq, Repr

/-- The four formats (30_encoding R60); WIRE is a plain byte and carries no instruction. -/
inductive Format
  /-- 9 bits: `esc` and a wire byte. -/
  | rxw
  /-- 8 bits: a payload or FCS byte before stuffing. -/
  | txb
  /-- Named operands, no bit layout. -/
  | operation
  deriving DecidableEq, Repr

end Sys2Proof
end

