-- ==== Sys2Proof/WellFormed.lean ====
section
/-! DEFINITION. Which terms of `Instr` stand for something the hardware decodes: the operand ranges of
30_encoding R61 and R62. -/

namespace Sys2Proof

open Config

/-- The operand ranges of the classes: RX.ESCDATA takes any value except FLAG, RX.DATA and TX.PUT_LITERAL any value
except ESC and FLAG (30_encoding R61, R62); every other constructor takes all its operand values (00_scope R8). -/
def Instr.wellFormed : Instr → Bool
  | .rxFlag => true
  | .rxFlagAbort => true
  | .rxEsc => true
  | .rxEscData v => v != FLAG
  | .rxData v => v != ESC && v != FLAG
  | .txPutEscapedEsc => true
  | .txPutEscapedFlag => true
  | .txPutLiteral b => b != ESC && b != FLAG
  | .crcUpdate _ _ => true
  | .rxOnByte _ => true
  | .txSendFrame _ => true

/-- The format of an instruction's row (30_encoding R60). -/
def Instr.format : Instr → Format
  | .rxFlag => .rxw
  | .rxFlagAbort => .rxw
  | .rxEsc => .rxw
  | .rxEscData _ => .rxw
  | .rxData _ => .rxw
  | .txPutEscapedEsc => .txb
  | .txPutEscapedFlag => .txb
  | .txPutLiteral _ => .txb
  | .crcUpdate _ _ => .operation
  | .rxOnByte _ => .operation
  | .txSendFrame _ => .operation

end Sys2Proof
end

