-- ==== Sys2Proof/Decode.lean ====
section
/-! DEFINITION. The decoder (30_encoding R61, R62: both classifications are total and written in the tables' priority
order), the encoder, and the encoding rows of spec/opcode_table.json as data. -/

namespace Sys2Proof

open Config

/-- The five classes of a receiver byte (30_encoding R61). -/
inductive RxClass
  | flag
  | flagAbort
  | esc
  | escData (v : Byte)
  | data (v : Byte)
  deriving DecidableEq, Repr

/-- The receiver's classification of `{esc, v}`: rows in priority order, first match wins (30_encoding R61). -/
def rxClass (esc : Bool) (v : Byte) : RxClass :=
  if esc = false ∧ v = FLAG then .flag
  else if esc = true ∧ v = FLAG then .flagAbort
  else if esc = false ∧ v = ESC then .esc
  else if esc = true then .escData v
  else .data v

/-- The instruction of a receiver class. -/
def RxClass.instr : RxClass → Instr
  | .flag => .rxFlag
  | .flagAbort => .rxFlagAbort
  | .esc => .rxEsc
  | .escData v => .rxEscData v
  | .data v => .rxData v

/-- The word RXW = {esc, v}: bit 8 is `esc`, bits 7:0 are `v` (30_encoding R60). -/
def rxWord (esc : Bool) (v : Byte) : RxWord :=
  BitVec.ofBool esc ++ v

/-- The `esc` field of an RXW word, bit 8 (30_encoding R60). -/
def rxWordEsc (w : RxWord) : Bool :=
  w.getLsbD 8

/-- The `v` field of an RXW word, bits 7:0 (30_encoding R60). -/
def rxWordByte (w : RxWord) : Byte :=
  w.setWidth 8

/-- Decode of an RXW word, total over its 512 values (30_encoding R61). -/
def decodeRxw (w : RxWord) : Instr :=
  (rxClass (rxWordEsc w) (rxWordByte w)).instr

/-- Decode of a TXB byte, total over its 256 values: 0x7D and 0x7E are escaped, every other byte is literal
(30_encoding R62, 42_frame_transmitter R135). -/
def decodeTxb (b : Byte) : Instr :=
  if b = ESC then .txPutEscapedEsc
  else if b = FLAG then .txPutEscapedFlag
  else .txPutLiteral b

/-- Why bits are no instruction. -/
inductive DecodeError
  /-- No format of 30_encoding R60 has this many bits (the operations have no bit layout). -/
  | noSuchFormat (nbits : Nat)
  /-- The number has bits above the format's width. -/
  | wordTooWide (nbits w : Nat)
  deriving DecidableEq, Repr

/-- Decode of `nbits` bits numbered as spec/opcode_table.json numbers them: 8 bits are a TXB byte, 9 bits (16 in
whole bytes, the bits above 8 zero) an RXW word. Log entry 13. -/
def decodeWord (nbits w : Nat) : Except DecodeError Instr :=
  if nbits = 8 then
    if w < 256 then .ok (decodeTxb (BitVec.ofNat 8 w)) else .error (.wordTooWide nbits w)
  else if nbits = 9 ∨ nbits = 16 then
    if w < 512 then .ok (decodeRxw (BitVec.ofNat 9 w)) else .error (.wordTooWide nbits w)
  else .error (.noSuchFormat nbits)

/-- What the decoder reads from an instruction of `nbits` bits; none where it refuses. -/
def decodeTableWord (nbits w : Nat) : Option Instr :=
  match decodeWord nbits w with
  | .ok i => some i
  | .error _ => none

/-- The bits of an instruction: how many, and their value; none for the operations, which have no bit encoding
(30_encoding R60). Written from the table of 30_encoding R61 and the classes of R62. -/
def encode : Instr → Option (Nat × Nat)
  | .rxFlag => some (9, 0x07E)
  | .rxFlagAbort => some (9, 0x17E)
  | .rxEsc => some (9, 0x07D)
  | .rxEscData v => some (9, 0x100 + v.toNat)
  | .rxData v => some (9, v.toNat)
  | .txPutEscapedEsc => some (8, 0x7D)
  | .txPutEscapedFlag => some (8, 0x7E)
  | .txPutLiteral b => some (8, b.toNat)
  | .crcUpdate _ _ => none
  | .rxOnByte _ => none
  | .txSendFrame _ => none

/-- The mnemonic of an instruction's row in spec/opcode_table.json. -/
def Instr.mnemonic : Instr → String
  | .rxFlag => "RX.FLAG"
  | .rxFlagAbort => "RX.FLAG_ABORT"
  | .rxEsc => "RX.ESC"
  | .rxEscData _ => "RX.ESCDATA"
  | .rxData _ => "RX.DATA"
  | .txPutEscapedEsc => "TX.PUT_ESCAPED.ESC"
  | .txPutEscapedFlag => "TX.PUT_ESCAPED.FLAG"
  | .txPutLiteral _ => "TX.PUT_LITERAL"
  | .crcUpdate _ _ => "CRC.UPDATE"
  | .rxOnByte _ => "RX.ON_BYTE"
  | .txSendFrame _ => "TX.SEND_FRAME"

/-- One row of spec/opcode_table.json that has a bit encoding. -/
structure OpcodeRow where
  mnemonic : String
  format : Format
  pattern : Nat
  mask : Nat
  deriving DecidableEq, Repr

/-- The rows of spec/opcode_table.json with a bit encoding, in priority order within each format. -/
def opcodeRows : List OpcodeRow :=
  [⟨"RX.FLAG", .rxw, 0x07E, 0x1FF⟩,
   ⟨"RX.FLAG_ABORT", .rxw, 0x17E, 0x1FF⟩,
   ⟨"RX.ESC", .rxw, 0x07D, 0x1FF⟩,
   ⟨"RX.ESCDATA", .rxw, 0x100, 0x100⟩,
   ⟨"RX.DATA", .rxw, 0x000, 0x100⟩,
   ⟨"TX.PUT_ESCAPED.ESC", .txb, 0x7D, 0xFF⟩,
   ⟨"TX.PUT_ESCAPED.FLAG", .txb, 0x7E, 0xFF⟩,
   ⟨"TX.PUT_LITERAL", .txb, 0x00, 0x00⟩]

/-- Whether a word has the fixed bits of a row. -/
def OpcodeRow.fits (r : OpcodeRow) (w : Nat) : Bool :=
  w &&& r.mask == r.pattern

/-- The mnemonic of the first row of a format that a word fits: the table's own reading, row by row. -/
def tableMnemonic (f : Format) (w : Nat) : Option String :=
  (opcodeRows.find? fun r => r.format == f && r.fits w).map (·.mnemonic)

/-- The length of a wire unit, told from its first byte (30_encoding R69): two bytes after an escape marker, one
otherwise. -/
def wireUnitLength (first : Byte) : Nat :=
  if first = ESC then 2 else 1

end Sys2Proof
end

