-- ==== Sys2Proof/Machine/State.lean ====
section
/-! DEFINITION. The state of the machine as plain data: every receiver and transmitter instance, the environment's
inputs still to come and what the interfaces have shown so far; faults, refusals and reset. -/

namespace Sys2Proof.Machine

open Config

/-- The receive buffer's contents: the cells written since creation, by rising index. A cell that is not listed has
no value in the list; where its value is used it is the free value `Config.unwrittenCell` (log entry 3). -/
abbrev Memory := List Host.Cell

/-- The canonical form of a buffer's contents: indices strictly rising, so that equal contents are equal lists. -/
abbrev Memory.wf (m : Memory) : Prop :=
  m.Pairwise fun a b => a.1 < b.1

/-- One receiver instance (10_state R20; each instance has its own copy and its own MRU, R35). -/
structure Receiver where
  /-- MRU, fixed at creation (00_scope R6, 10_state R33). -/
  mru : Nat
  /-- `rx.crc` (10_state R21). -/
  crc : Crc
  /-- `rx.length` (10_state R22). -/
  length : Nat
  /-- `rx.esc`, the only status flag (10_state R23, R32). -/
  esc : Bool
  /-- `rx.buf` (10_state R24). -/
  buf : Memory
  /-- The model's own: an emission is in progress, the consumer has not returned (41_frame_receiver R107). Log entry 8. -/
  emitting : Bool
  deriving DecidableEq, Repr

/-- The step of 42_frame_transmitter R130 that a send has reached. Log entry 6. -/
inductive TxStage
  /-- Step 2: payload bytes are being put. -/
  | payload
  /-- Step 4: FCS bytes are being put. -/
  | fcs
  /-- Step 5: the closing FLAG has been offered. -/
  | closing
  deriving DecidableEq, Repr

/-- One transmitter instance (10_state R27). -/
structure Transmitter where
  /-- `tx.busy`. -/
  busy : Bool
  /-- `tx.crc`; it has a meaning only while busy (10_state R30). Log entry 4. -/
  crc : Crc
  /-- `tx.pending`: the wire bytes of this frame not yet written; the first one has been offered and awaits its
  answer. -/
  pending : List Byte
  /-- The model's own: the step of R130 reached. -/
  stage : TxStage
  /-- The model's own: payload bytes, then FCS bytes, that are still to be put (the captured payload, 92 D8). -/
  left : List Byte
  /-- The model's own: the second wire byte of an escaped pair whose first byte awaits its answer (R135). -/
  second : Option Byte
  deriving DecidableEq, Repr

/-- The instances of one kind, with one of them addressed: the instance the running operation acts on. Instances have
no identifiers the hardware can see (60_exceptions R161); the environment names one by its place. Log entry 10. -/
structure Pool (α : Type) where
  before : List α
  cur : α
  after : List α
  deriving DecidableEq, Repr

/-- The transport's answer to a write (42_frame_transmitter R132). -/
inductive Answer
  | ok
  | ioError
  deriving DecidableEq, Repr

/-- The result of `TX.SEND_FRAME` (60_exceptions R151). -/
inductive Result
  | success
  | transportFailure
  deriving DecidableEq, Repr

/-- Why a run is dropped at a FLAG; no interface shows it and no state records it (60_exceptions R152, R153). -/
inductive DropCause
  | abort
  | short
  | crc
  deriving DecidableEq, Repr

/-- What the frame consumer does with an emission: return at once, or stay in the call while other things happen
until it returns (41_frame_receiver R107, 60_exceptions R157, 92 D13). Log entry 8. -/
inductive ConsumerTurn
  | returnsAtOnce
  | staysInCall
  deriving DecidableEq, Repr

/-- What the environment does to the block (60_exceptions R162, R154; 70_reset_and_hazards R170). -/
inductive Input
  /-- The transport calls `RX.ON_BYTE(v)` on receiver `r`; `turn` is how the consumer treats an emission of this call. -/
  | rxByte (r : Nat) (v : Byte) (turn : ConsumerTurn)
  /-- A second caller's `RX.ON_BYTE(v)` overlaps a call on receiver `r` (93 I2). -/
  | rxOverlap (r : Nat) (v : Byte)
  /-- The consumer calls `RX.ON_BYTE(v)` on receiver `r` while it handles an emission of `r` (93 I3). -/
  | consumerByte (r : Nat) (v : Byte)
  /-- The consumer returns from the emission of receiver `r`. -/
  | consumerReturns (r : Nat)
  /-- A caller (the consumer, too) calls `TX.SEND_FRAME(payload)` on transmitter `t`. -/
  | sendFrame (t : Nat) (payload : List Byte)
  /-- The transport answers the outstanding write of transmitter `t`. -/
  | answer (t : Nat) (a : Answer)
  /-- Another writer puts byte `x` on the transport of transmitter `t` (93 I1). -/
  | foreignWrite (t : Nat) (x : Byte)
  /-- `CRC.UPDATE(crc, byte)` is evaluated. -/
  | crcUpdate (crc : Crc) (byte : Byte)
  /-- A connection is created, and with it a receiver instance with this MRU (70_reset_and_hazards R170). -/
  | newReceiver (mru : Nat)
  /-- A transmitter instance comes into use (60_exceptions R161). -/
  | newTransmitter
  deriving DecidableEq, Repr

/-- What an observer sees (60_exceptions R150), and the value of a CRC.UPDATE evaluated by itself (30_encoding R68). -/
inductive Output
  /-- `emit(bytes)` of receiver `r` (41_frame_receiver R107). -/
  | emission (r : Nat) (bytes : List Byte)
  /-- `transmitByte(x)` of transmitter `t` (42_frame_transmitter R132). -/
  | write (t : Nat) (x : Byte)
  /-- The result of the send of transmitter `t` (60_exceptions R151). -/
  | result (t : Nat) (r : Result)
  /-- The result of `CRC.UPDATE` (40_crc_engine R80). -/
  | crc (v : Crc)
  deriving DecidableEq, Repr

/-- The machine. -/
structure State where
  /-- The receiver instances (10_state R35). -/
  rxs : Pool Receiver
  /-- The transmitter instances (60_exceptions R161). -/
  txs : Pool Transmitter
  /-- The environment's inputs still to come, oldest first. Log entry 1. -/
  inputs : List Input
  /-- How the consumer treats the emission the running `RX.ON_BYTE` may make. Log entry 8. -/
  consumer : ConsumerTurn
  /-- What the interfaces have shown so far, oldest first. Log entry 17. -/
  outputs : List Output
  deriving DecidableEq, Repr

/-- The usage faults (60_exceptions R154): the environment broke a duty. None is a hardware signal. -/
inductive Fault
  /-- CONCURRENT_SEND, raised by `TX.SEND_FRAME` on a busy transmitter and by a foreign write during a send; safe
  (the spec gives the block no behaviour there). -/
  | concurrentSend
  /-- CONCURRENT_RX, raised by `RX.ON_BYTE` when another call on the same receiver has not finished; safe. -/
  | concurrentRx
  /-- REENTRANT_RX, raised when the consumer calls `RX.ON_BYTE` on the receiver that is emitting; safe. -/
  | reentrantRx
  deriving DecidableEq, Repr

/-- Inputs that have no meaning (60_exceptions R162: a run that breaks a duty "faults or is refused"). -/
inductive Refusal
  /-- An instruction without a meaning yet, raised by no arm of `exec`; safe. -/
  | notModelled (mnemonic : String)
  /-- An input names a receiver that has not been created, raised by `fetch`; safe. -/
  | noSuchReceiver (r : Nat)
  /-- An input names a transmitter that does not exist, raised by `fetch`; safe. -/
  | noSuchTransmitter (t : Nat)
  /-- A receiver is created with MRU 0, outside the legal range (00_scope R6), raised by `fetch`; safe. -/
  | illegalMru (mru : Nat)
  /-- The transport answers a transmitter that has offered nothing (60_exceptions R162), raised by `fetch`; safe. -/
  | unexpectedAnswer (t : Nat)
  /-- The consumer acts inside an emission of a receiver that is not emitting, raised by `fetch`; safe. -/
  | noEmission (r : Nat)
  deriving DecidableEq, Repr

/-- A receiver instance right after creation (10_state R30, 70_reset_and_hazards R170). Log entries 2 and 3. -/
def Receiver.create (mru : Nat) : Receiver :=
  { mru := mru, crc := SEED, length := 0, esc := false, buf := [], emitting := false }

/-- A transmitter that is idle, "holds nothing" (10_state R27, R30; 42_frame_transmitter R139). Log entry 4. -/
def Transmitter.idle : Transmitter :=
  { busy := false, crc := 0, pending := [], stage := .payload, left := [], second := none }

/-- The machine right after reset: one receiver instance with the default MRU and one idle transmitter
(10_state R30; log entries 5 and 10), nothing asked yet and nothing shown. -/
def State.reset : State :=
  { rxs := { before := [], cur := Receiver.create MRU_DEFAULT, after := [] }
    txs := { before := [], cur := Transmitter.idle, after := [] }
    inputs := []
    consumer := .returnsAtOnce
    outputs := [] }

end Sys2Proof.Machine
end

