-- ==== Sys2Proof/Machine/Operands.lean ====
section
/-! DEFINITION. How operands and fields are put together: the CRC table index (30_encoding R67), the FCS and its two
bytes (R66), destuffing (R63) and stuffing (R62). -/

namespace Sys2Proof.Machine

open Config

/-- `idx = (crc ^ zext_16(byte))[7:0]` (30_encoding R67). -/
def tableIndex (c : Crc) (b : Byte) : Byte :=
  (c ^^^ b.setWidth 16).setWidth 8

/-- `T[idx]` (40_crc_engine R82). -/
def tableEntry (idx : Byte) : Crc :=
  crcTable.getD idx.toNat 0

/-- `fcs = crc ^ 0xFFFF` (30_encoding R66). -/
def fcs (c : Crc) : Crc :=
  c ^^^ FCSXOR

/-- `f[7:0]`, the FCS byte that goes out first (20_memory R43). -/
def lowByte (f : Crc) : Byte :=
  f.setWidth 8

/-- `f[15:8]`, the FCS byte that goes out second (20_memory R43). -/
def highByte (f : Crc) : Byte :=
  (f >>> 8).setWidth 8

/-- The byte XORed with the mask: what an escaped byte is sent as (30_encoding R62), and back (R63). -/
def masked (b : Byte) : Byte :=
  b ^^^ XMASK

/-- `stuff(b)` (30_encoding R62). -/
def stuff (b : Byte) : List Byte :=
  if b = ESC ∨ b = FLAG then [ESC, masked b] else [b]

/-- The stuffed bytes of a sequence, in order (30_encoding R65). -/
def stuffAll (s : List Byte) : List Byte :=
  s.flatMap stuff

end Sys2Proof.Machine
end

