-- ==== Sys2Proof/Machine/Flags.lean ====
section
/-! DEFINITION. The tests the receiver makes: the emission test and the drop causes at a FLAG (41_frame_receiver R101,
60_exceptions R152, R155), and the overflow test (41_frame_receiver R104). The only status flag is `rx.esc`
(10_state R32); it is written by the classes themselves. -/

namespace Sys2Proof.Machine

open Config

/-- The emission test: `rx.length >= MINLEN and rx.crc == GOOD` (41_frame_receiver R101). -/
abbrev Receiver.accepts (rx : Receiver) : Prop :=
  MINLEN ≤ rx.length ∧ rx.crc = GOOD

/-- The overflow test, made after the increment: `rx.length == MRU` (41_frame_receiver R104). -/
abbrev Receiver.full (rx : Receiver) : Prop :=
  rx.length = rx.mru

/-- Why a FLAG that arrives now drops the run, in the order ABORT, SHORT, CRC; none if it emits
(60_exceptions R152, R155(b)). -/
def Receiver.dropCause (rx : Receiver) : Option DropCause :=
  if rx.esc = true then some .abort
  else if rx.length < MINLEN then some .short
  else if rx.crc ≠ GOOD then some .crc
  else none

/-- The code of a drop cause (60_exceptions R152). -/
def DropCause.code : DropCause → Nat
  | .abort => 1
  | .short => 2
  | .crc => 3

/-- The code of a result (60_exceptions R151). -/
def Result.code : Result → Nat
  | .success => 0
  | .transportFailure => 1

end Sys2Proof.Machine
end

