-- ==== Sys2Proof/Machine/Ops.lean ====
section
/-! DEFINITION. The shared operations: the receive buffer (20_memory R41, R42), the CRC fold (40_crc_engine R80,
00_scope R11), the receiver's store procedure, reset and emission (41_frame_receiver R101, R104, R107), the
transmitter's write, abort and end (42_frame_transmitter R132), and the addressing of instances. -/

namespace Sys2Proof.Machine

open Config

/-! ### The receive buffer -/

/-- The value last written to cell `i`, if any was (`MemRead` of one cell, 20_memory R42). -/
def Memory.read : Memory → Nat → Option Byte
  | [], _ => none
  | (a, v) :: m, i => if a = i then some v else Memory.read m i

/-- `MemWrite(i, 1, v)` (20_memory R41), kept in canonical form. -/
def Memory.write : Memory → Nat → Byte → Memory
  | [], i, v => [(i, v)]
  | (a, w) :: m, i, v =>
    if i < a then (i, v) :: (a, w) :: m
    else if i = a then (i, v) :: m
    else (a, w) :: Memory.write m i v

/-- The byte in cell `i` of receiver number `r`: the last one written, or the free value of a cell nothing has
written (10_state R34(a)). -/
def Receiver.cell (r : Nat) (rx : Receiver) (i : Nat) : Byte :=
  (rx.buf.read i).getD (unwrittenCell r i)

/-- `rx.buf[0 .. n)` in index order (20_memory R42). -/
def Receiver.cells (r : Nat) (rx : Receiver) (n : Nat) : List Byte :=
  (List.range n).map (Receiver.cell r rx)

/-! ### The CRC engine -/

/-- `update(crc, byte) = (crc >> 8) ^ T[(crc ^ byte) & 0xFF]`, the full 16 bits (40_crc_engine R80, R84). -/
def update (c : Crc) (b : Byte) : Crc :=
  (c >>> 8) ^^^ tableEntry (tableIndex c b)

/-- `fold(c, s)` (00_scope R11). -/
def fold (c : Crc) (s : List Byte) : Crc :=
  s.foldl update c

/-- `n` steps of the bit-serial form: shift toward bit 0, folding the polynomial in when bit 0 was 1
(40_crc_engine R81, R85). -/
def serialShift : Nat → Crc → Crc
  | 0, c => c
  | n + 1, c => serialShift n (if c.getLsbD 0 then (c >>> 1) ^^^ POLY else c >>> 1)

/-- The bit-serial form of the update (40_crc_engine R85). -/
def updateSerial (c : Crc) (b : Byte) : Crc :=
  serialShift 8 (c ^^^ b.setWidth 16)

/-! ### The wire form of a frame -/

/-- The stuffed FCS, low byte first (30_encoding R66, 42_frame_transmitter R131). -/
def stuffFcs (f : Crc) : List Byte :=
  stuff (lowByte f) ++ stuff (highByte f)

/-- `encode(p)`, the wire bytes of a frame (30_encoding R65, 42_frame_transmitter R131). -/
def encodeFrame (p : List Byte) : List Byte :=
  [FLAG] ++ stuffAll p ++ stuffFcs (fcs (fold SEED p)) ++ [FLAG]

/-! ### The receiver -/

/-- `STORE(b)` (41_frame_receiver R104): the destuffed byte is stored and folded, the length counted, and at MRU the
length wraps and the CRC is inverted in the same step. -/
def Receiver.store (rx : Receiver) (b : Byte) : Receiver :=
  let stored := { rx with
    buf := rx.buf.write rx.length b, crc := update rx.crc b, length := rx.length + 1 }
  if stored.full then { stored with length := 0, crc := stored.crc ^^^ WRAPXOR } else stored

/-- The reset every FLAG makes (41_frame_receiver R101, R102); `rx.buf` and MRU stay (70_reset_and_hazards R170). -/
def Receiver.restart (rx : Receiver) : Receiver :=
  { rx with length := 0, crc := SEED, esc := false }

/-- The payload an emission delivers: `rx.buf[0 .. rx.length - 2)` (41_frame_receiver R107). -/
def Receiver.payload (r : Nat) (rx : Receiver) : List Byte :=
  Receiver.cells r rx (rx.length - FCSLEN)

/-! ### Instances -/

/-- All instances of a pool, in the environment's numbering. -/
def Pool.toList {α : Type} (p : Pool α) : List α :=
  p.before ++ p.cur :: p.after

/-- The number of the addressed instance. -/
def Pool.here {α : Type} (p : Pool α) : Nat :=
  p.before.length

/-- Instance number `k`, if there is one. -/
def Pool.get? {α : Type} (p : Pool α) (k : Nat) : Option α :=
  p.toList[k]?

/-- The same instances with number `k` addressed, if there is one. -/
def Pool.select {α : Type} (p : Pool α) (k : Nat) : Option (Pool α) :=
  match p.toList.drop k with
  | [] => none
  | x :: xs => some { before := p.toList.take k, cur := x, after := xs }

/-- One more instance, with the next number. -/
def Pool.add {α : Type} (p : Pool α) (x : α) : Pool α :=
  { p with after := p.after ++ [x] }

/-- The addressed receiver. -/
def State.rx (s : State) : Receiver :=
  s.rxs.cur

/-- The addressed transmitter. -/
def State.tx (s : State) : Transmitter :=
  s.txs.cur

/-- Write the addressed receiver. -/
def State.setRx (s : State) (rx : Receiver) : State :=
  { s with rxs := { s.rxs with cur := rx } }

/-- Write the addressed transmitter. -/
def State.setTx (s : State) (tx : Transmitter) : State :=
  { s with txs := { s.txs with cur := tx } }

/-- Show something at an interface. -/
def State.output (s : State) (o : Output) : State :=
  { s with outputs := s.outputs ++ [o] }

/-- `emit(rx.buf[0 .. rx.length - 2))` of the addressed receiver (41_frame_receiver R107): a snapshot. -/
def State.emit (s : State) : State :=
  s.output (.emission s.rxs.here (Receiver.payload s.rxs.here s.rx))

/-! ### The transmitter -/

/-- The offering half of `WRITE(x)`: `transmitByte(x)`, recorded when offered (42_frame_transmitter R132). -/
def State.offer (s : State) (x : Byte) : State :=
  s.output (.write s.txs.here x)

/-- The `ok` half of `WRITE`: `tx.pending <- tail(tx.pending)` (42_frame_transmitter R132). -/
def Transmitter.answered (tx : Transmitter) : Transmitter :=
  { tx with pending := tx.pending.tail }

/-- The end of a send, with either result: the transmitter is idle and holds nothing (42_frame_transmitter R130,
R132, R139; 60_exceptions R156). -/
def State.endSend (s : State) (r : Result) : State :=
  (s.setTx Transmitter.idle).output (.result s.txs.here r)

/-- The block's one error entry, the abort on a failed write (42_frame_transmitter R132, 60_exceptions R156): it saves
nothing, `tx.busy <- 0`, `tx.pending <- []`, and TransportFailure is returned. The hardware has no traps, so there is no
exception entry and no return from one (60_exceptions R150, R157). -/
def State.abortSend (s : State) : State :=
  s.endSend .transportFailure

end Sys2Proof.Machine
end

