-- ==== Sys2Proof/Machine/CrcEngine.lean ====
section
/-! DEFINITION. The meaning of CRC.UPDATE (40_crc_engine R80, R88). -/

namespace Sys2Proof.Machine

/-- `CRC.UPDATE` (40_crc_engine R80): the result is shown to the caller; the engine has no state (R88). -/
def execCrcUpdate (crc : Crc) (byte : Byte) (s : State) : Host.Outcome State Fault Refusal :=
  .next (s.output (.crc (update crc byte)))

end Sys2Proof.Machine
end

