-- ==== Sys2Proof/Machine/FrameReceiver.lean ====
section
/-! DEFINITION. The meanings of the receiver's classes and of RX.ON_BYTE (41_frame_receiver R100 to R107). -/

namespace Sys2Proof.Machine

open Config

/-- `RX.FLAG` (41_frame_receiver R101). The emission reads the state from before the reset and comes before it; the
reset completes when the consumer returns (R107, 92 D13), in this step when it returns at once. -/
def execRxFlag (s : State) : Host.Outcome State Fault Refusal :=
  if s.rx.accepts then
    match s.consumer with
    | .returnsAtOnce => .next (s.emit.setRx s.rx.restart)
    | .staysInCall => .next (s.emit.setRx { s.rx with emitting := true })
  else .next (s.setRx s.rx.restart)

/-- `RX.FLAG_ABORT` (41_frame_receiver R102): no emission, whatever `rx.length` and `rx.crc` hold. -/
def execRxFlagAbort (s : State) : Host.Outcome State Fault Refusal :=
  .next (s.setRx s.rx.restart)

/-- `RX.ESC` (41_frame_receiver R103): consumed, nothing stored. -/
def execRxEsc (s : State) : Host.Outcome State Fault Refusal :=
  .next (s.setRx { s.rx with esc := true })

/-- `RX.DATA` (41_frame_receiver R105). -/
def execRxData (v : Byte) (s : State) : Host.Outcome State Fault Refusal :=
  .next (s.setRx (s.rx.store v))

/-- `RX.ESCDATA` (41_frame_receiver R106). -/
def execRxEscData (v : Byte) (s : State) : Host.Outcome State Fault Refusal :=
  .next (s.setRx (Receiver.store { s.rx with esc := false } (masked v)))

/-- `RX.ON_BYTE` (41_frame_receiver R100): the class of `{rx.esc, v}`. A call that arrives while this receiver's
previous call has not finished is CONCURRENT_RX (60_exceptions R154). -/
def execRxOnByte (v : Byte) (s : State) : Host.Outcome State Fault Refusal :=
  if s.rx.emitting then .fault .concurrentRx
  else
    match rxClass s.rx.esc v with
    | .flag => execRxFlag s
    | .flagAbort => execRxFlagAbort s
    | .esc => execRxEsc s
    | .escData v => execRxEscData v s
    | .data v => execRxData v s

/-- The end of an emission the consumer stayed in: the rest of the RX.FLAG step, its reset (41_frame_receiver R107,
92 D13). -/
def State.endEmission (s : State) : State :=
  s.setRx { s.rx.restart with emitting := false }

end Sys2Proof.Machine
end

