-- ==== Sys2Proof/Machine/FrameTransmitter.lean ====
section
/-! DEFINITION. The meanings of TX.SEND_FRAME and of the stuffing classes (42_frame_transmitter R130, R132, R135), and
what a send does next after a write was answered `ok`. -/

namespace Sys2Proof.Machine

open Config

/-- `TX.SEND_FRAME(p)` up to its first suspension point (42_frame_transmitter R130): accepted, with `tx.crc` seeded
and `tx.pending = encode(p)` (10_state R27, R131), and the opening FLAG offered; on a busy transmitter the fault
CONCURRENT_SEND. The rest of R130 runs as the transport answers (`Transmitter.advance`). -/
def execTxSendFrame (payload : List Byte) (s : State) : Host.Outcome State Fault Refusal :=
  if s.tx.busy then .fault .concurrentSend
  else
    let accepted : Transmitter :=
      { busy := true, crc := SEED, pending := encodeFrame payload
        stage := .payload, left := payload, second := none }
    .next ((s.setTx accepted).offer FLAG)

/-- `PUT(b)` for an escaped byte (42_frame_transmitter R135): the escape marker is offered; the masked byte is
offered once the marker has been answered `ok`. -/
def putEscaped (b : Byte) (s : State) : State :=
  (s.setTx { s.tx with second := some (masked b) }).offer ESC

/-- `TX.PUT_ESCAPED.ESC`: 0x7D goes out as `7D 5D` (42_frame_transmitter R135). -/
def execTxPutEscapedEsc (s : State) : Host.Outcome State Fault Refusal :=
  .next (putEscaped ESC s)

/-- `TX.PUT_ESCAPED.FLAG`: 0x7E goes out as `7D 5E` (42_frame_transmitter R135). -/
def execTxPutEscapedFlag (s : State) : Host.Outcome State Fault Refusal :=
  .next (putEscaped FLAG s)

/-- `TX.PUT_LITERAL`: the byte goes out unchanged (42_frame_transmitter R135). -/
def execTxPutLiteral (b : Byte) (s : State) : Host.Outcome State Fault Refusal :=
  .next (s.offer b)

/-- What a send does next. -/
inductive TxAction
  /-- `WRITE(x)` of a byte that is not stuffed here: a delimiter, or the second byte of an escaped pair. -/
  | write (x : Byte) (tx : Transmitter)
  /-- `PUT(b)` of a payload or FCS byte. -/
  | put (b : Byte) (tx : Transmitter)
  /-- `return Success`. -/
  | succeed
  deriving DecidableEq, Repr

/-- What a send does after its write was answered `ok` (42_frame_transmitter R130, R134, R135): the second byte of an
escaped pair; else the next payload byte, folded before it is put; else the FCS, low byte first, not folded; else the
closing FLAG; after that, Success (R133). -/
def Transmitter.advance (tx : Transmitter) : TxAction :=
  match tx.second with
  | some y => .write y { tx with second := none }
  | none =>
    match tx.stage, tx.left with
    | .payload, b :: rest => .put b { tx with crc := update tx.crc b, left := rest }
    | .payload, [] =>
      .put (lowByte (fcs tx.crc)) { tx with stage := .fcs, left := [highByte (fcs tx.crc)] }
    | .fcs, b :: rest => .put b { tx with left := rest }
    | .fcs, [] => .write FLAG { tx with stage := .closing }
    | .closing, _ => .succeed

end Sys2Proof.Machine
end

