-- ==== Sys2Proof/Machine/Dispatch.lean ====
section
/-! DEFINITION. One arm per instruction. -/

namespace Sys2Proof.Machine

def exec (i : Instr) (s : State) : Host.Outcome State Fault Refusal :=
  match i with
  | .rxFlag => Sys2Proof.Machine.execRxFlag s
  | .rxFlagAbort => Sys2Proof.Machine.execRxFlagAbort s
  | .rxEsc => Sys2Proof.Machine.execRxEsc s
  | .rxEscData v => Sys2Proof.Machine.execRxEscData v s
  | .rxData v => Sys2Proof.Machine.execRxData v s
  | .txPutEscapedEsc => Sys2Proof.Machine.execTxPutEscapedEsc s
  | .txPutEscapedFlag => Sys2Proof.Machine.execTxPutEscapedFlag s
  | .txPutLiteral b => Sys2Proof.Machine.execTxPutLiteral b s
  | .crcUpdate crc byte => Sys2Proof.Machine.execCrcUpdate crc byte s
  | .rxOnByte v => Sys2Proof.Machine.execRxOnByte v s
  | .txSendFrame payload => Sys2Proof.Machine.execTxSendFrame payload s

end Sys2Proof.Machine
end

