-- ==== Sys2Proof/Machine/Fetch.lean ====
section
/-! DEFINITION. From the next environment input to the instruction it makes the block run. The hardware has no program
counter (10_state R31): a receiver instruction comes from a byte delivered, a transmitter instruction from a call or
from the answer to a write (00_scope R12). -/

namespace Sys2Proof.Machine

open Config

/-- What the next input comes to. -/
inductive Fetched
  /-- The block runs this instruction in this state. -/
  | run (i : Instr) (s : State)
  /-- No instruction runs: the outcome of the step is this. -/
  | settled (o : Host.Outcome State Fault Refusal)

/-- Address receiver `r`, or refuse. -/
def withReceiver (r : Nat) (s : State) (k : State → Fetched) : Fetched :=
  match s.rxs.select r with
  | none => .settled (.refused (.noSuchReceiver r))
  | some p => k { s with rxs := p }

/-- Address transmitter `t`, or refuse. -/
def withTransmitter (t : Nat) (s : State) (k : State → Fetched) : Fetched :=
  match s.txs.select t with
  | none => .settled (.refused (.noSuchTransmitter t))
  | some p => k { s with txs := p }

/-- A write answered `ok` (42_frame_transmitter R132): its byte leaves `tx.pending`, and the send goes on in the same
step to its next write, or ends with Success (R133). -/
def fetchAnsweredOk (s : State) : Fetched :=
  match s.tx.answered.advance with
  | .put b tx => .run (decodeTxb b) (s.setTx tx)
  | .write x tx => .settled (.next ((s.setTx tx).offer x))
  | .succeed => .settled (.next (s.endSend .success))

/-- The transport's answer to the addressed transmitter's outstanding write (42_frame_transmitter R132). A busy
transmitter always has one write outstanding, an idle one none. -/
def fetchAnswer (t : Nat) (a : Answer) (s : State) : Fetched :=
  if s.tx.busy then
    match a with
    | .ok => fetchAnsweredOk s
    | .ioError => .settled (.next s.abortSend)
  else .settled (.refused (.unexpectedAnswer t))

/-- The meaning of one environment input (60_exceptions R162, R154; 70_reset_and_hazards R170). -/
def fetchInput (e : Input) (s : State) : Fetched :=
  match e with
  | .rxByte r v turn =>
    withReceiver r s fun t => .run (.rxOnByte v) { t with consumer := turn }
  | .rxOverlap r _ => withReceiver r s fun _ => .settled (.fault .concurrentRx)
  | .consumerByte r _ =>
    withReceiver r s fun t =>
      .settled (if t.rx.emitting then .fault .reentrantRx else .refused (.noEmission r))
  | .consumerReturns r =>
    withReceiver r s fun t =>
      .settled (if t.rx.emitting then .next t.endEmission else .refused (.noEmission r))
  | .sendFrame t p => withTransmitter t s fun u => .run (.txSendFrame p) u
  | .answer t a => withTransmitter t s fun u => fetchAnswer t a u
  | .foreignWrite t _ =>
    withTransmitter t s fun u =>
      .settled (if u.tx.busy then .fault .concurrentSend else .next u)
  | .crcUpdate c b => .run (.crcUpdate c b) s
  | .newReceiver mru =>
    .settled (if mru = 0 then .refused (.illegalMru mru)
      else .next { s with rxs := s.rxs.add (Receiver.create mru) })
  | .newTransmitter => .settled (.next { s with txs := s.txs.add Transmitter.idle })

/-- The next input, oldest first; with none to come the block has no step to take and stays as it is
(60_exceptions R163: "it is idle, not stuck"). Log entry 14. -/
def fetch (s : State) : Fetched :=
  match s.inputs with
  | [] => .settled (.next s)
  | e :: rest => fetchInput e { s with inputs := rest }

/-- A receiver state in which the byte `v`, delivered next, is decoded as the word {esc, v}. -/
def placeRxWord (s : State) (w : RxWord) : State :=
  { s.setRx { s.rx with esc := rxWordEsc w, emitting := false } with
    inputs := .rxByte s.rxs.here (rxWordByte w) .returnsAtOnce :: s.inputs }

/-- A transmitter in a send, with a write outstanding that the transport answers `ok` next, and with `b` the last
byte to put after it. -/
def placeTxByte (s : State) (b : Byte) : State :=
  { s.setTx { s.tx with
      busy := true, pending := FLAG :: (stuff b ++ [FLAG]), stage := .fcs, left := [b], second := none } with
    inputs := .answer s.txs.here .ok :: s.inputs }

end Sys2Proof.Machine
end

