-- ==== Sys2Proof/Machine/Step.lean ====
section
/-! DEFINITION. One step of the machine: the next environment input, and the instruction it makes the block run. -/

namespace Sys2Proof.Machine

/-- One step: one `RX.ON_BYTE`, one acceptance of a send, one answered write with what the send does up to its next
suspension point (20_memory R47), or one other input. -/
def step (s : State) : Host.Outcome State Fault Refusal :=
  match fetch s with
  | .run i t => exec i t
  | .settled o => o

/-- `s` with the instruction of `nbits` bits `w` placed where the next step takes it: a TXB byte in the addressed
transmitter's send, an RXW word as `rx.esc` and the next byte for the addressed receiver; bits of no format place
nothing. Log entries 1 and 13. -/
def State.withFetchWord (s : State) (nbits w : Nat) : State :=
  if nbits = 8 then placeTxByte s (BitVec.ofNat 8 w)
  else if nbits = 9 ∨ nbits = 16 then placeRxWord s (BitVec.ofNat 9 w)
  else s

end Sys2Proof.Machine
end

