-- ==== Sys2Proof/Safety.lean ====
section
/-! DEFINITION. What counts as a good state and a safe run: the invariant of each instance, the environment's duties
(60_exceptions R162), and the observations of one instance (60_exceptions R150) that claims are stated in. -/

namespace Sys2Proof.Machine

open Config

/-- What every receiver instance keeps between operations: MRU is legal (00_scope R6), `0 <= rx.length <= MRU - 1`
(10_state R22), the buffer is canonical and holds cells 0 to MRU-1 only (20_memory R40(a)), every cell below
`rx.length` has been written (10_state R34(a)), and an emission is in progress only on an accepted run with no escape
pending (41_frame_receiver R101). -/
abbrev Receiver.wf (rx : Receiver) : Prop :=
  1 ≤ rx.mru ∧ rx.length < rx.mru ∧ Memory.wf rx.buf ∧ (∀ c ∈ rx.buf, c.1 < rx.mru) ∧
    (∀ i < rx.length, (rx.buf.read i).isSome = true) ∧
    (rx.emitting = true → rx.accepts ∧ rx.esc = false)

/-- The wire bytes a send still has to offer, read off the algorithm's position: what comes after the byte that awaits
its answer (42_frame_transmitter R130, R131). -/
def Transmitter.toCome (tx : Transmitter) : List Byte :=
  tx.second.toList ++
    match tx.stage with
    | .payload => stuffAll tx.left ++ stuffFcs (fcs (fold tx.crc tx.left)) ++ [FLAG]
    | .fcs => stuffAll tx.left ++ [FLAG]
    | .closing => []

/-- What every transmitter instance keeps between steps: busy, `tx.pending` is the byte that awaits its answer followed
by what the algorithm still has to offer (10_state R27); idle, it holds nothing (42_frame_transmitter R139). -/
abbrev Transmitter.wf (tx : Transmitter) : Prop :=
  if tx.busy = true then tx.pending ≠ [] ∧ tx.pending.tail = tx.toCome else tx = Transmitter.idle

/-- The invariant of the machine: every instance is well formed. -/
abbrev State.inv (s : State) : Prop :=
  (∀ rx ∈ s.rxs.toList, rx.wf) ∧ ∀ tx ∈ s.txs.toList, tx.wf

/-- Whether an input keeps the environment's duties in a state (60_exceptions R162): it names an instance that exists,
the receiver's calls do not overlap, no second send and no foreign write during a send, an answer only to a write, a
legal MRU (00_scope R6). -/
def dutyKept (s : State) : Input → Bool
  | .rxByte r _ _ => (s.rxs.get? r).any fun rx => !rx.emitting
  | .rxOverlap _ _ => false
  | .consumerByte _ _ => false
  | .consumerReturns r => (s.rxs.get? r).any fun rx => rx.emitting
  | .sendFrame t _ => (s.txs.get? t).any fun tx => !tx.busy
  | .answer t _ => (s.txs.get? t).any fun tx => tx.busy
  | .foreignWrite t _ => (s.txs.get? t).any fun tx => !tx.busy
  | .crcUpdate _ _ => true
  | .newReceiver mru => decide (1 ≤ mru)
  | .newTransmitter => true

/-- The receiver an input acts on. -/
def Input.receiver? : Input → Option Nat
  | .rxByte r _ _ => some r
  | .rxOverlap r _ => some r
  | .consumerByte r _ => some r
  | .consumerReturns r => some r
  | _ => none

/-- The transmitter an input acts on. -/
def Input.transmitter? : Input → Option Nat
  | .sendFrame t _ => some t
  | .answer t _ => some t
  | .foreignWrite t _ => some t
  | _ => none

/-- The frames receiver `r` has emitted. -/
def emissionsOf (r : Nat) (os : List Output) : List (List Byte) :=
  os.filterMap fun
    | .emission k bytes => if k = r then some bytes else none
    | _ => none

/-- The bytes transmitter `t` has offered. -/
def writesOf (t : Nat) (os : List Output) : List Byte :=
  os.filterMap fun
    | .write k x => if k = t then some x else none
    | _ => none

/-- The results transmitter `t` has returned. -/
def resultsOf (t : Nat) (os : List Output) : List Result :=
  os.filterMap fun
    | .result k r => if k = t then some r else none
    | _ => none

/-- The inputs that deliver wire bytes to receiver `r`, one call each, to a consumer that returns at once. -/
def deliver (r : Nat) (wire : List Byte) : List Input :=
  wire.map fun v => .rxByte r v .returnsAtOnce

/-- The inputs of a send on transmitter `t` whose first `n` writes are answered `ok`. -/
def sendAnswered (t : Nat) (p : List Byte) (n : Nat) : List Input :=
  .sendFrame t p :: List.replicate n (.answer t .ok)

/-- A run of the machine over inputs given to it: one step for each (Host.Core.run). -/
def State.runOn (s : State) (inputs : List Input) : Host.Outcome State Fault Refusal :=
  Sys2Proof.core.run inputs.length { s with inputs := inputs }

/-- `Lz(d) = update(d, 0x00)`: how a difference between two CRC states passes through one update
(40_crc_engine R86). -/
def zeroUpdate (d : Crc) : Crc :=
  update d 0x00

/-- `D = XOR over j = 1..w of Lz^(n - j*MRU)(0xFFFF)` with `w = floor(n / MRU)`: the difference that the overflow
wraps leave in `rx.crc` after `n` stored bytes (41_frame_receiver R109(b)). -/
def overflowDelta (mru n : Nat) : Crc :=
  (List.range (n / mru)).foldl (fun d j => d ^^^ zeroUpdate^[n - (j + 1) * mru] WRAPXOR) 0

end Sys2Proof.Machine
end

