-- ==== Sys2Proof/Certificates/Slice0/Obligations.lean ====
section
/-! DEFINITION. The statements for the provers. Each docstring names the rule it formalises; a statement that rests on
a law the spec derives, on a decision of the spec or on a choice of the model says so. -/

open Sys2Proof Sys2Proof.Machine Sys2Proof.Config

/-! ### Encodings -/

/-- 30_encoding sections 1 to 3: for every well-formed instruction with a bit encoding, every operand at every value,
decoding its bits gives it back; exactly the operations have no bit encoding. -/
def Obligations.DecodeEncodeAgree : Prop :=
  (∀ (i : Instr) (n w : Nat), i.wellFormed = true → encode i = some (n, w) → decodeTableWord n w = some i) ∧
    ∀ i : Instr, encode i = none ↔ i.format = .operation

/-- 30_encoding sections 2 and 3: every RXW word and every TXB byte decodes to a well-formed instruction whose encoding
is that word. -/
def Obligations.EncodeDecodeAgree : Prop :=
  (∀ w : RxWord, (decodeRxw w).wellFormed = true ∧ encode (decodeRxw w) = some (9, w.toNat)) ∧
    ∀ b : Byte, (decodeTxb b).wellFormed = true ∧ encode (decodeTxb b) = some (8, b.toNat)

/-- R61: the five rows of the receiver's decode table; together they cover every {esc, v}, each once. -/
def Obligations.ReceiverDecodeTable : Prop :=
  ∀ (esc : Bool) (v : Byte),
    (esc = false → v = 0x7E → decodeRxw (rxWord esc v) = .rxFlag) ∧
    (esc = true → v = 0x7E → decodeRxw (rxWord esc v) = .rxFlagAbort) ∧
    (esc = false → v = 0x7D → decodeRxw (rxWord esc v) = .rxEsc) ∧
    (esc = true → v ≠ 0x7E → decodeRxw (rxWord esc v) = .rxEscData v) ∧
    (esc = false → v ≠ 0x7E → v ≠ 0x7D → decodeRxw (rxWord esc v) = .rxData v)

/-- spec/opcode_table.json read row by row in priority order, first match wins, names the instruction the decoder
gives, for every RXW word and every TXB byte. -/
def Obligations.OpcodeRowsAgreeWithDecoder : Prop :=
  (∀ w : RxWord, tableMnemonic .rxw w.toNat = some (decodeRxw w).mnemonic) ∧
    ∀ b : Byte, tableMnemonic .txb b.toNat = some (decodeTxb b).mnemonic

/-- 30_encoding R61, R62 on words written out: one word of each class. That an RXW word may come in 16 bits and that
bits of no format are refused (9 bits holding 512, 0 bits) is the model's choice of layout (log entry 13). -/
def Obligations.SpelledWordsDecode : Prop :=
  decodeTableWord 9 0b001111110 = some .rxFlag ∧ decodeTableWord 9 0b101111110 = some .rxFlagAbort ∧
  decodeTableWord 9 0b001111101 = some .rxEsc ∧ decodeTableWord 9 0b101111101 = some (.rxEscData 0x7D) ∧
  decodeTableWord 16 0b0000000001011110 = some (.rxData 0x5E) ∧
  decodeTableWord 8 0b01111101 = some .txPutEscapedEsc ∧ decodeTableWord 8 0b01111110 = some .txPutEscapedFlag ∧
  decodeTableWord 8 0b01011110 = some (.txPutLiteral 0x5E) ∧
  decodeTableWord 9 512 = none ∧ decodeTableWord 0 0 = none

/-- R62: `stuff(b)` is `[ESC, b ^ XMASK]` for 0x7D and 0x7E and `[b]` otherwise, so 0x7E goes out as `7D 5E` and 0x7D as
`7D 5D`; every payload byte and each FCS byte is stuffed, the two delimiters are not. -/
def Obligations.StuffingRule : Prop :=
  (∀ b : Byte, (b = 0x7D ∨ b = 0x7E → stuff b = [0x7D, b ^^^ 0x20]) ∧ (b ≠ 0x7D → b ≠ 0x7E → stuff b = [b])) ∧
  stuff 0x7E = [0x7D, 0x5E] ∧ stuff 0x7D = [0x7D, 0x5D] ∧
  ∀ p : List Byte,
    encodeFrame p = [0x7E] ++ p.flatMap stuff ++
      stuff (lowByte (fcs (fold 0xFFFF p))) ++ stuff (highByte (fcs (fold 0xFFFF p))) ++ [0x7E]

/-- 42_frame_transmitter section 3, 30_encoding section 5: the wire length of a frame is `n + 4 + k` with `k` the bytes
among payload and FCS that are stuffed, and a wire unit's first byte tells its length. -/
def Obligations.WireLength : Prop :=
  (∀ p : List Byte,
    (encodeFrame p).length = p.length + 4 +
      (p ++ [lowByte (fcs (fold 0xFFFF p)), highByte (fcs (fold 0xFFFF p))]).countP
        (fun b => b == 0x7D || b == 0x7E) ∧
    p.length + 4 ≤ (encodeFrame p).length ∧ (encodeFrame p).length ≤ 2 * p.length + 6) ∧
  ∀ b : Byte, (stuff b).head?.map wireUnitLength = some (stuff b).length

/-- 42_frame_transmitter section 3 (No bare delimiter or escape in the body): in `encode(p)`, 0x7E occurs only first and
last, and every 0x7D is followed by 0x5D or 0x5E. -/
def Obligations.NoBareDelimiterInBody : Prop :=
  ∀ p : List Byte, ∃ body : List Byte,
    encodeFrame p = 0x7E :: body ++ [0x7E] ∧ (0x7E : Byte) ∉ body ∧
    ∀ i : Nat, body[i]? = some 0x7D → body[i + 1]? = some 0x5D ∨ body[i + 1]? = some 0x5E

/-! ### The CRC engine -/

/-- 40_crc_engine section 1 (R80): `CRC.UPDATE` gives `(crc >> 8) ^ T[(crc ^ zext_16(byte)) & 0xFF]`, all 16 bits, and
changes no state, with the rule's corner cases and its example. That the result is shown in `outputs` is the model's
choice (log entry 17); the numbers of the corner case and of the example rest on the table's values, which the spec takes
from general knowledge (log entry 12). -/
def Obligations.CrcUpdateResult : Prop :=
  (∀ (c : Crc) (b : Byte) (s : State),
    exec (.crcUpdate c b) s =
      .next { s with outputs := s.outputs ++
        [.crc ((c >>> 8) ^^^ crcTable.getD ((c ^^^ b.setWidth 16) &&& 0xFF).toNat 0)] }) ∧
  (∀ s : State, exec (.crcUpdate 0x0000 0x00) s = .next { s with outputs := s.outputs ++ [.crc 0x0000] }) ∧
  (∀ (c : Crc) (b : Byte),
    (update c b) >>> 8 = crcTable.getD ((c ^^^ b.setWidth 16) &&& 0xFF).toNat 0 >>> 8) ∧
  ∀ s : State, exec (.crcUpdate 0xFFFF 0x01) s = .next { s with outputs := s.outputs ++ [.crc 0x1E0E] }

/-- 40_crc_engine section 2: the 256 values of the table are those the generation rule for polynomial 0x8408 gives
(the rule and the values are the spec's general knowledge, 92 D17; log entry 12). -/
def Obligations.TableFollowsGenerationRule : Prop :=
  crcTable.length = 256 ∧ ∀ n : Byte, tableEntry n = serialShift 8 (n.setWidth 16)

/-- 40_crc_engine section 4 (Bitwise form): the table form and the bit-serial form of the update agree on every 16-bit
accumulator and every byte. -/
def Obligations.UpdateIsBitSerial : Prop :=
  ∀ (c : Crc) (b : Byte), update c b = updateSerial c b

/-- 40_crc_engine section 4 (Linearity over GF(2)): of the table, and of the update in both operands. -/
def Obligations.UpdateIsLinear : Prop :=
  (∀ i j : Byte, tableEntry (i ^^^ j) = tableEntry i ^^^ tableEntry j) ∧ tableEntry 0 = 0 ∧
  ∀ (c1 c2 : Crc) (b1 b2 : Byte), update (c1 ^^^ c2) (b1 ^^^ b2) = update c1 b1 ^^^ update c2 b2

/-- 40_crc_engine section 4: a difference `d` of two accumulators passes through one update as `Lz(d)` whatever byte is
folded, and `Lz` is a bijection of the 16-bit values. -/
def Obligations.DifferencePassesThroughUpdate : Prop :=
  (∀ (c d : Crc) (b : Byte), update (c ^^^ d) b = update c b ^^^ zeroUpdate d) ∧ Function.Bijective zeroUpdate

/-- 40_crc_engine sections 3 and 4 (Residual law): a message followed by its FCS bytes, low byte first, folds from the
seed to 0xF0B8. -/
def Obligations.ResidualLaw : Prop :=
  ∀ m : List Byte,
    fold 0xFFFF (m ++ [lowByte (fold 0xFFFF m ^^^ 0xFFFF), highByte (fold 0xFFFF m ^^^ 0xFFFF)]) = 0xF0B8

/-! ### The receiver -/

/-- R100: `RX.ON_BYTE(v)` on a receiver whose previous call has finished is one step that completes, and it is the class
of {rx.esc, v}; it emits at most once, and only in class RX.FLAG. -/
def Obligations.OnByteRunsItsClass : Prop :=
  ∀ (s : State) (v : Byte), s.rx.emitting = false →
    (∃ t : State, exec (.rxOnByte v) s = .next t ∧
      (t.outputs = s.outputs ∨
        s.rx.esc = false ∧ v = 0x7E ∧ ∃ bytes, t.outputs = s.outputs ++ [.emission s.rxs.here bytes])) ∧
    (s.rx.esc = false → v = 0x7E → exec (.rxOnByte v) s = exec .rxFlag s) ∧
    (s.rx.esc = true → v = 0x7E → exec (.rxOnByte v) s = exec .rxFlagAbort s) ∧
    (s.rx.esc = false → v = 0x7D → exec (.rxOnByte v) s = exec .rxEsc s) ∧
    (s.rx.esc = true → v ≠ 0x7E → exec (.rxOnByte v) s = exec (.rxEscData v) s) ∧
    (s.rx.esc = false → v ≠ 0x7E → v ≠ 0x7D → exec (.rxOnByte v) s = exec (.rxData v) s)

/-- R101: a FLAG with no escape pending emits `rx.buf[0 .. rx.length - 2)` if `rx.length >= 16` and
`rx.crc == 0xF0B8`, tested before the reset, and in all cases resets length, crc and esc; nothing else changes. The
consumer returns at once (for one that stays in the call see EmissionHeldUntilConsumerReturns). -/
def Obligations.FlagEmitsOrDrops : Prop :=
  ∀ s : State, s.consumer = .returnsAtOnce →
    (16 ≤ s.rx.length ∧ s.rx.crc = 0xF0B8 →
      exec .rxFlag s = .next
        { s with
          rxs := { s.rxs with cur := { s.rx with length := 0, crc := 0xFFFF, esc := false } }
          outputs := s.outputs ++ [.emission s.rxs.here (Receiver.cells s.rxs.here s.rx (s.rx.length - 2))] }) ∧
    (¬(16 ≤ s.rx.length ∧ s.rx.crc = 0xF0B8) →
      exec .rxFlag s = .next
        { s with rxs := { s.rxs with cur := { s.rx with length := 0, crc := 0xFFFF, esc := false } } })

/-- 41_frame_receiver R107, 92 D13, as the model splits it (log entry 8, the model's choice): with a consumer that stays
in the call, a FLAG that does not emit is as with any consumer; one that emits shows the emission and leaves the receiver
in the emission with its registers as they were; the consumer's return completes the FLAG's reset. -/
def Obligations.EmissionHeldUntilConsumerReturns : Prop :=
  (∀ s : State, s.consumer = .staysInCall →
    (16 ≤ s.rx.length ∧ s.rx.crc = 0xF0B8 →
      exec .rxFlag s = .next
        { s with
          rxs := { s.rxs with cur := { s.rx with emitting := true } }
          outputs := s.outputs ++ [.emission s.rxs.here (Receiver.cells s.rxs.here s.rx (s.rx.length - 2))] }) ∧
    (¬(16 ≤ s.rx.length ∧ s.rx.crc = 0xF0B8) →
      exec .rxFlag s = .next
        { s with rxs := { s.rxs with cur := { s.rx with length := 0, crc := 0xFFFF, esc := false } } })) ∧
  ∀ (s : State) (r : Nat) (p : Pool Receiver) (rest : List Input),
    s.inputs = .consumerReturns r :: rest → s.rxs.select r = some p → p.cur.emitting = true →
    step s = .next
      { s with
        inputs := rest
        rxs := { p with cur := { p.cur with length := 0, crc := 0xFFFF, esc := false, emitting := false } } }

/-- R102: a FLAG after an escape resets length, crc and esc and emits nothing, whatever length and crc hold; nothing
else changes. -/
def Obligations.FlagAbortNeverEmits : Prop :=
  ∀ s : State, exec .rxFlagAbort s = .next
    { s with rxs := { s.rxs with cur := { s.rx with length := 0, crc := 0xFFFF, esc := false } } }

/-- R103: an escape marker sets `rx.esc`; length, crc and buffer, and everything else, stay. -/
def Obligations.EscMarksOnly : Prop :=
  ∀ s : State, exec .rxEsc s = .next
    { s with rxs := { s.rxs with cur := { s.rx with esc := true } } }

/-- R105 with the store procedure R104: an ordinary byte is stored at `rx.buf[rx.length]` and folded, and the length
counts up; at MRU the length wraps to 0 and the CRC is inverted in the same step; nothing else changes. -/
def Obligations.DataByteStored : Prop :=
  ∀ (s : State) (v : Byte),
    (s.rx.length + 1 ≠ s.rx.mru →
      exec (.rxData v) s = .next
        { s with rxs := { s.rxs with cur := { s.rx with
            buf := Memory.write s.rx.buf s.rx.length v, crc := update s.rx.crc v, length := s.rx.length + 1 } } }) ∧
    (s.rx.length + 1 = s.rx.mru →
      exec (.rxData v) s = .next
        { s with rxs := { s.rxs with cur := { s.rx with
            buf := Memory.write s.rx.buf s.rx.length v, crc := update s.rx.crc v ^^^ 0xFFFF, length := 0 } } })

/-- R106 with the store procedure R104: a byte after an escape is XORed with 0x20, stored and folded in that form, and
`rx.esc` is cleared; the wrap as for any stored byte; nothing else changes. -/
def Obligations.EscapedByteStored : Prop :=
  ∀ (s : State) (v : Byte),
    (s.rx.length + 1 ≠ s.rx.mru →
      exec (.rxEscData v) s = .next
        { s with rxs := { s.rxs with cur := { s.rx with
            esc := false, buf := Memory.write s.rx.buf s.rx.length (v ^^^ 0x20),
            crc := update s.rx.crc (v ^^^ 0x20), length := s.rx.length + 1 } } }) ∧
    (s.rx.length + 1 = s.rx.mru →
      exec (.rxEscData v) s = .next
        { s with rxs := { s.rxs with cur := { s.rx with
            esc := false, buf := Memory.write s.rx.buf s.rx.length (v ^^^ 0x20),
            crc := update s.rx.crc (v ^^^ 0x20) ^^^ 0xFFFF, length := 0 } } })

/-- 10_state section 1, 20_memory section 1 (the receive buffer): a stored byte goes to the cell at `rx.length` and to
no other; a delimiter and an escape marker leave every cell. -/
def Obligations.StoreTouchesOneCell : Prop :=
  (∀ (s : State) (v : Byte), ∃ t : State, exec (.rxData v) s = .next t ∧
    Memory.read t.rx.buf s.rx.length = some v ∧
    ∀ a : Nat, a ≠ s.rx.length → Memory.read t.rx.buf a = Memory.read s.rx.buf a) ∧
  (∀ (s : State) (v : Byte), ∃ t : State, exec (.rxEscData v) s = .next t ∧
    Memory.read t.rx.buf s.rx.length = some (v ^^^ 0x20) ∧
    ∀ a : Nat, a ≠ s.rx.length → Memory.read t.rx.buf a = Memory.read s.rx.buf a) ∧
  ∀ (i : Instr) (s t : State), i = .rxFlag ∨ i = .rxFlagAbort ∨ i = .rxEsc → exec i s = .next t →
    ∀ a : Nat, Memory.read t.rx.buf a = Memory.read s.rx.buf a

/-- 10_state section 1, 20_memory section 5: what the receiver's instructions leave unchanged: every transmitter, every
other receiver, MRU, the inputs to come; and what was shown before stays shown. -/
def Obligations.ReceiverInstrFrame : Prop :=
  ∀ (i : Instr) (s t : State),
    i = .rxFlag ∨ i = .rxFlagAbort ∨ i = .rxEsc ∨ (∃ v, i = .rxEscData v) ∨ (∃ v, i = .rxData v) ∨
      (∃ v, i = .rxOnByte v) →
    exec i s = .next t →
    t.txs = s.txs ∧ t.rxs.before = s.rxs.before ∧ t.rxs.after = s.rxs.after ∧ t.rx.mru = s.rx.mru ∧
    t.inputs = s.inputs ∧ t.consumer = s.consumer ∧ s.outputs <+: t.outputs

/-- R23: `rx.esc` is 1 exactly after an ESC byte consumed with `rx.esc = 0`. The next byte clears it whatever it is: a
FLAG by the abort, any other byte, ESC included, by the escaped-data store. And no step of the machine but such an ESC
byte on receiver `r` makes its flag 1. -/
def Obligations.EscFlagRule : Prop :=
  (∀ (s t : State) (v : Byte), exec (.rxOnByte v) s = .next t →
    (t.rx.esc = true ↔ s.rx.esc = false ∧ v = 0x7D) ∧
    (s.rx.esc = true → exec (if v = 0x7E then .rxFlagAbort else .rxEscData v) s = .next t)) ∧
  ∀ (s t : State) (r : Nat) (rx rx' : Receiver), step s = .next t →
    s.rxs.get? r = some rx → t.rxs.get? r = some rx' → rx.esc = false → rx'.esc = true →
    ∃ turn rest, s.inputs = .rxByte r 0x7D turn :: rest

/-- R152: the drop causes at a FLAG with their codes, and that a drop resets the run and shows nothing, while a FLAG
without a cause emits; a byte that is no FLAG drops nothing (it shows nothing and the run goes on or wraps). -/
def Obligations.DropCausesAtFlag : Prop :=
  (DropCause.code .abort = 1 ∧ DropCause.code .short = 2 ∧ DropCause.code .crc = 3) ∧
  ∀ s : State,
    (s.rx.dropCause = some .abort ↔ s.rx.esc = true) ∧
    (s.rx.dropCause = some .short ↔ s.rx.esc = false ∧ s.rx.length < 16) ∧
    (s.rx.dropCause = some .crc ↔ s.rx.esc = false ∧ 16 ≤ s.rx.length ∧ s.rx.crc ≠ 0xF0B8) ∧
    (s.rx.emitting = false → s.rx.dropCause ≠ none →
      exec (.rxOnByte 0x7E) s = .next
        { s with rxs := { s.rxs with cur := { s.rx with length := 0, crc := 0xFFFF, esc := false } } }) ∧
    (s.rx.emitting = false → s.rx.dropCause = none →
      ∃ t : State, exec (.rxOnByte 0x7E) s = .next t ∧
        t.outputs = s.outputs ++ [.emission s.rxs.here (Receiver.payload s.rxs.here s.rx)]) ∧
    (∀ v : Byte, s.rx.emitting = false → v ≠ 0x7E →
      ∃ t : State, exec (.rxOnByte v) s = .next t ∧ t.outputs = s.outputs ∧
        (t.rx = { s.rx with esc := true } ∨ ∃ b : Byte, t.rx = Receiver.store { s.rx with esc := false } b))

/-- 41_frame_receiver section 4 (Length bounds): an emitted payload has 14 to MRU-3 bytes, and with MRU <= 16 nothing is
ever emitted. -/
def Obligations.EmittedLengthBounds : Prop :=
  ∀ (s t : State) (v : Byte), s.rx.wf → exec (.rxOnByte v) s = .next t →
    (∀ r bytes, t.outputs = s.outputs ++ [.emission r bytes] → 14 ≤ bytes.length ∧ bytes.length + 3 ≤ s.rx.mru) ∧
    (s.rx.mru ≤ 16 → t.outputs = s.outputs)

/-- 10_state R34(a), 20_memory section 1: in a well-formed receiver every cell an emission reads has been written, so no
emitted byte is the free value of an unwritten cell, and every index it reads is below MRU. -/
def Obligations.EmissionReadsWrittenCells : Prop :=
  ∀ (s t : State) (bytes : List Byte), s.rx.wf → exec .rxFlag s = .next t →
    t.outputs = s.outputs ++ [.emission s.rxs.here bytes] →
    ∀ i : Nat, i < bytes.length → i < s.rx.mru ∧ Memory.read s.rx.buf i = bytes[i]?

/-- 30_encoding section 3 (Destuffing): a receiver with no escape pending that is given `stuff(b)` stores exactly `b`
and has no escape pending after it; an escaped byte that is no FLAG decodes to `x ^ 0x20`. -/
def Obligations.StuffedByteStoredOnce : Prop :=
  (∀ (s : State) (b : Byte), s.rx.esc = false → s.rx.emitting = false →
    ∃ t : State, s.runOn (deliver s.rxs.here (stuff b)) = .next t ∧
      t.rxs = { s.rxs with cur := s.rx.store b } ∧ t.rx.esc = false ∧ t.txs = s.txs ∧ t.outputs = s.outputs) ∧
  ∀ (s : State) (x : Byte), s.rx.esc = true → s.rx.emitting = false → x ≠ 0x7E →
    exec (.rxOnByte x) s = .next (s.setRx (Receiver.store { s.rx with esc := false } (x ^^^ 0x20)))

/-- 41_frame_receiver section 4 (History independence): after a FLAG, two receivers with the same MRU emit the same
frames for the same wire bytes, whatever they had received before. The consumer returns at once; a run with a consumer
that stays in the call (log entry 8) is not spoken of. -/
def Obligations.FlagForgetsHistory : Prop :=
  ∀ (s1 s2 : State) (r : Nat) (a b : Receiver) (wire : List Byte),
    s1.rxs.get? r = some a → s2.rxs.get? r = some b → a.mru = b.mru →
    a.emitting = false → b.emitting = false →
    ∃ u1 u2 t1 t2 : State, ∃ shown : List Output,
      s1.runOn (deliver r [0x7E]) = .next u1 ∧ s2.runOn (deliver r [0x7E]) = .next u2 ∧
      u1.runOn (deliver r wire) = .next t1 ∧ u2.runOn (deliver r wire) = .next t2 ∧
      t1.outputs = u1.outputs ++ shown ∧ t2.outputs = u2.outputs ++ shown

/-- 41_frame_receiver section 4 (Round trip): `encode(p)` fed to any receiver that is in no emission emits exactly `p`
after whatever its opening FLAG emits, and leaves length 0, crc 0xFFFF, esc 0; with nothing stored before, the opening
FLAG emits nothing. -/
def Obligations.RoundTrip : Prop :=
  ∀ (s : State) (r : Nat) (rx : Receiver) (p : List Byte),
    s.rxs.get? r = some rx → rx.emitting = false → 14 ≤ p.length → p.length + 3 ≤ rx.mru →
    ∃ u t : State, ∃ rx' : Receiver,
      s.runOn (deliver r [0x7E]) = .next u ∧ s.runOn (deliver r (encodeFrame p)) = .next t ∧
      t.outputs = u.outputs ++ [.emission r p] ∧ (rx.length = 0 → u.outputs = s.outputs) ∧
      t.rxs.get? r = some rx' ∧ rx'.length = 0 ∧ rx'.crc = 0xFFFF ∧ rx'.esc = false ∧ rx'.mru = rx.mru

/-- 41_frame_receiver section 4 (Bytes before the first FLAG): a frame without its opening FLAG is accepted by a fresh
receiver. It rests on the spec's decision D4 on the values at creation (log entry 2). -/
def Obligations.FreshReceiverNeedsNoOpeningFlag : Prop :=
  ∀ (s : State) (r mru : Nat) (p : List Byte),
    s.rxs.get? r = some (Receiver.create mru) → 14 ≤ p.length → p.length + 3 ≤ mru →
    ∃ t : State, s.runOn (deliver r (encodeFrame p).tail) = .next t ∧
      t.outputs = s.outputs ++ [.emission r p]

/-- 41_frame_receiver section 4 (What the overflow inversion guarantees, (b)): after a run of stored bytes `B` since the
last FLAG, `rx.length` is `n mod MRU` and `rx.crc` is `fold(SEED, B) ^ D`, with `D` depending on `n` and MRU only. The
run reaches the receiver in its canonical stuffing; escapes the transmitter never makes are not spoken of. -/
def Obligations.OverflowLeavesDelta : Prop :=
  ∀ (s : State) (r : Nat) (rx : Receiver) (B : List Byte),
    s.rxs.get? r = some rx → rx.emitting = false → 1 ≤ rx.mru →
    rx.length = 0 → rx.crc = 0xFFFF → rx.esc = false →
    ∃ t : State, ∃ rx' : Receiver, s.runOn (deliver r (stuffAll B)) = .next t ∧ t.rxs.get? r = some rx' ∧
      rx'.length = B.length % rx.mru ∧ rx'.crc = fold 0xFFFF B ^^^ overflowDelta rx.mru B.length ∧
      rx'.esc = false ∧ t.outputs = s.outputs

/-- 41_frame_receiver section 4 (What the overflow inversion guarantees, (a) and (c)): a genuine over-long frame (its
uninverted CRC is good) is emitted at the FLAG only if `D = 0` and at least 16 bytes follow the last wrap; and no
over-long run with fewer than 16 bytes after the last wrap is emitted. -/
def Obligations.OverlongFrameEmission : Prop :=
  ∀ (s : State) (r : Nat) (rx : Receiver) (B : List Byte),
    s.rxs.get? r = some rx → rx.emitting = false → 1 ≤ rx.mru →
    rx.length = 0 → rx.crc = 0xFFFF → rx.esc = false → rx.mru ≤ B.length →
    ∃ t : State, s.runOn (deliver r (stuffAll B ++ [0x7E])) = .next t ∧
      (B.length % rx.mru < 16 → t.outputs = s.outputs) ∧
      (fold 0xFFFF B = 0xF0B8 →
        (t.outputs ≠ s.outputs ↔ overflowDelta rx.mru B.length = 0 ∧ 16 ≤ B.length % rx.mru))

/-- 41_frame_receiver section 4 (Length bounds; What the overflow inversion guarantees, (c)): a frame the transmitter
sends with a payload of MRU-2 bytes or more, up to one wrap, is dropped: nothing is shown after what its opening FLAG
shows, and the receiver is ready for the next frame. -/
def Obligations.OverlongSentFrameDropped : Prop :=
  ∀ (s : State) (r : Nat) (rx : Receiver) (p : List Byte),
    s.rxs.get? r = some rx → rx.emitting = false → rx.mru ≤ p.length + 2 → p.length + 2 < 2 * rx.mru →
    ∃ u t : State, ∃ rx' : Receiver,
      s.runOn (deliver r [0x7E]) = .next u ∧ s.runOn (deliver r (encodeFrame p)) = .next t ∧
      t.outputs = u.outputs ∧
      t.rxs.get? r = some rx' ∧ rx'.length = 0 ∧ rx'.crc = 0xFFFF ∧ rx'.esc = false

/-- 41_frame_receiver section 4, (c), at the default MRU: every genuine over-long run (its uninverted CRC is good) of
64 to 2,097,103 stored bytes is dropped at the FLAG that ends it. -/
def Obligations.GenuineOverlongDroppedAtDefaultMru : Prop :=
  ∀ (s : State) (r : Nat) (rx : Receiver) (B : List Byte),
    s.rxs.get? r = some rx → rx.emitting = false → rx.mru = 64 →
    rx.length = 0 → rx.crc = 0xFFFF → rx.esc = false →
    64 ≤ B.length → B.length < 2097104 → fold 0xFFFF B = 0xF0B8 →
    ∃ t : State, s.runOn (deliver r (stuffAll B ++ [0x7E])) = .next t ∧ t.outputs = s.outputs

/-- 41_frame_receiver section 4, (d), and 90_conflicts C3: the overflow inversion is no guarantee: some run of more than
MRU stored bytes that holds no FLAG and no ESC is emitted at the FLAG that ends it. The run starts at reset with no FLAG
before it, so it rests on the receiver's values at creation (the spec's decision D4, log entry 2) and on MRU 64 there
(log entry 5). -/
def Obligations.CraftedOverlongRunEmits : Prop :=
  ∃ B : List Byte, 64 < B.length ∧ (0x7E : Byte) ∉ B ∧ (0x7D : Byte) ∉ B ∧
    ∃ t : State, ∃ bytes : List Byte,
      State.reset.runOn (deliver 0 (B ++ [0x7E])) = .next t ∧ t.outputs = [.emission 0 bytes]

/-! ### The transmitter -/

/-- 42_frame_transmitter section 1, 10_state section 2: `TX.SEND_FRAME(p)` on an idle transmitter is accepted: busy, crc
seeded with 0xFFFF, `tx.pending = encode(p)`, the opening FLAG offered; nothing else changes. The fields stage, left and
second are the model's own position (log entry 6). -/
def Obligations.SendFrameAccepted : Prop :=
  ∀ (s : State) (p : List Byte), s.tx.busy = false →
    exec (.txSendFrame p) s = .next
      { s with
        txs := { s.txs with cur :=
          { busy := true, crc := 0xFFFF, pending := encodeFrame p, stage := .payload, left := p, second := none } }
        outputs := s.outputs ++ [.write s.txs.here 0x7E] }

/-- 42_frame_transmitter section 2 (R135): `PUT(b)` offers `b` itself, or for 0x7D and 0x7E first the escape marker,
then, once that was answered `ok`, `b ^ 0x20` (5D, 5E); if the first write of the pair fails, the second is not offered;
if the second fails, the first has already been offered. That nothing else changes when a byte is put, and that the
second byte is offered in the step of the `ok`, is the model's split of a send into steps (log entries 6 and 21); that a
send ended by `io_error` leaves `Transmitter.idle`, with `tx.crc` 0x0000, is the model's choice (log entry 4). -/
def Obligations.PutOffersStuffedByte : Prop :=
  (∀ b : Byte, (b = 0x7D → decodeTxb b = .txPutEscapedEsc) ∧ (b = 0x7E → decodeTxb b = .txPutEscapedFlag) ∧
    (b ≠ 0x7D → b ≠ 0x7E → decodeTxb b = .txPutLiteral b)) ∧
  (∀ (s : State) (b : Byte),
    exec (.txPutLiteral b) s = .next { s with outputs := s.outputs ++ [.write s.txs.here b] }) ∧
  (∀ s : State,
    exec .txPutEscapedEsc s = .next
      { s with txs := { s.txs with cur := { s.tx with second := some 0x5D } }
               outputs := s.outputs ++ [.write s.txs.here 0x7D] } ∧
    exec .txPutEscapedFlag s = .next
      { s with txs := { s.txs with cur := { s.tx with second := some 0x5E } }
               outputs := s.outputs ++ [.write s.txs.here 0x7D] }) ∧
  ∀ (s : State) (k : Nat) (rest : List Input) (q : Pool Transmitter) (y : Byte),
    s.txs.select k = some q → q.cur.busy = true → q.cur.second = some y →
    (s.inputs = .answer k .ok :: rest →
      step s = .next
        { s with inputs := rest
                 txs := { q with cur := { q.cur with second := none, pending := q.cur.pending.tail } }
                 outputs := s.outputs ++ [.write k y] }) ∧
    (s.inputs = .answer k .ioError :: rest →
      step s = .next
        { s with inputs := rest, txs := { q with cur := Transmitter.idle }
                 outputs := s.outputs ++ [.result k .transportFailure] })

/-- 42_frame_transmitter section 1 (R132): a write answered `ok` leaves `tx.pending`, and the send offers the byte that
is now first, or, with none left, ends; a write answered `io_error` ends the send with TransportFailure, `tx.busy = 0` and
`tx.pending` empty, and offers nothing more. No write is offered before the previous one has been answered `ok`: while the
transmitter is busy, a step on anything but that `ok` offers none of its bytes. That the next byte is offered, or the
result returned, in the step of the answer is the model's choice (log entries 7 and 21). -/
def Obligations.AnswerMovesSend : Prop :=
  ∀ (s : State) (k : Nat) (rest : List Input) (q : Pool Transmitter),
    s.txs.select k = some q → q.cur.busy = true →
    (s.inputs = .answer k .ioError :: rest →
      ∃ tx : Transmitter, tx.busy = false ∧ tx.pending = [] ∧
        step s = .next
          { s with inputs := rest, txs := { q with cur := tx }
                   outputs := s.outputs ++ [.result k .transportFailure] }) ∧
    (s.inputs = .answer k .ok :: rest → q.cur.wf →
      (∀ (x : Byte) (xs : List Byte), q.cur.pending.tail = x :: xs →
        ∃ tx : Transmitter, tx.busy = true ∧ tx.pending = x :: xs ∧ tx.wf ∧
          step s = .next
            { s with inputs := rest, txs := { q with cur := tx }
                     outputs := s.outputs ++ [.write k x] }) ∧
      (q.cur.pending.tail = [] →
        ∃ tx : Transmitter, tx.busy = false ∧ tx.pending = [] ∧
          step s = .next
            { s with inputs := rest, txs := { q with cur := tx }
                     outputs := s.outputs ++ [.result k .success] })) ∧
    ∀ t : State, s.inputs.head? ≠ some (.answer k .ok) → step s = .next t →
      writesOf k t.outputs = writesOf k s.outputs

/-- 42_frame_transmitter section 1 (R134): `tx.crc` starts at 0xFFFF at each call, whatever the transmitter held; a
payload byte is folded as it is before stuffing, once, in payload order; FCS bytes, delimiters and the second byte of an
escaped pair leave it. Where a send stands is told by the model's own fields stage, left and second (log entry 6), and
that the next byte is folded, and leaves `left`, in the step of the `ok` is the model's choice (log entry 21). -/
def Obligations.SendCrcAccumulation : Prop :=
  (∀ (s : State) (p : List Byte), s.tx.busy = false →
    ∃ t : State, exec (.txSendFrame p) s = .next t ∧ t.tx.crc = 0xFFFF) ∧
  ∀ (s : State) (k : Nat) (rest : List Input) (q : Pool Transmitter),
    s.inputs = .answer k .ok :: rest → s.txs.select k = some q → q.cur.busy = true →
    (∀ (b : Byte) (l : List Byte), q.cur.second = none → q.cur.stage = .payload → q.cur.left = b :: l →
      ∃ t : State, step s = .next t ∧ t.tx.crc = update q.cur.crc b ∧ t.tx.left = l) ∧
    (q.cur.second ≠ none ∨ q.cur.stage = .fcs ∨ q.cur.stage = .payload ∧ q.cur.left = [] →
      ∃ t : State, step s = .next t ∧ t.tx.crc = q.cur.crc)

/-- 42_frame_transmitter section 1 (R131, R133): `tx.pending` is `encode(p)` at acceptance; with `n` writes answered
`ok`, fewer than all, the bytes offered are the first `n + 1` of `encode(p)` in order, no result is returned, the send is
busy and `tx.pending` is what follows the answered ones; with every write answered `ok`, the closing FLAG the last,
exactly `encode(p)` has been written and Success is returned. `encode(p)` is the FLAG, the stuffed payload, the stuffed
FCS low byte first, the FLAG. That the idle transmitter holds `tx.crc` 0x0000 is the model's choice (log entry 4), and
so is where its steps end (log entry 21). -/
def Obligations.SendWritesWholeFrame : Prop :=
  ∀ (s : State) (k : Nat) (tx : Transmitter) (p : List Byte),
    s.txs.get? k = some tx → tx.busy = false →
    (∀ n : Nat, n < (encodeFrame p).length →
      ∃ t : State, ∃ tx' : Transmitter, s.runOn (sendAnswered k p n) = .next t ∧
        t.outputs = s.outputs ++ ((encodeFrame p).take (n + 1)).map (.write k) ∧
        t.txs.get? k = some tx' ∧ tx'.busy = true ∧ tx'.pending = (encodeFrame p).drop n ∧ t.rxs = s.rxs) ∧
    (∃ t : State, s.runOn (sendAnswered k p (encodeFrame p).length) = .next t ∧
      t.outputs = s.outputs ++ (encodeFrame p).map (.write k) ++ [.result k .success] ∧
      t.txs.get? k = some Transmitter.idle ∧ t.rxs = s.rxs) ∧
    encodeFrame p = [0x7E] ++ p.flatMap stuff ++
      stuff (lowByte (fold 0xFFFF p ^^^ 0xFFFF)) ++ stuff (highByte (fold 0xFFFF p ^^^ 0xFFFF)) ++ [0x7E]

/-- 42_frame_transmitter section 3 (Failure prefix): when the write after `j` answered ones fails, the bytes offered are
`encode(p)[0 .. j]`, the failed one last, the result is TransportFailure and the transmitter is idle. That the idle
transmitter holds `tx.crc` 0x0000 is the model's choice (log entry 4). -/
def Obligations.FailedWriteCutsFrame : Prop :=
  ∀ (s : State) (k j : Nat) (tx : Transmitter) (p : List Byte),
    s.txs.get? k = some tx → tx.busy = false → j < (encodeFrame p).length →
    ∃ t : State, s.runOn (sendAnswered k p j ++ [.answer k .ioError]) = .next t ∧
      t.outputs = s.outputs ++ ((encodeFrame p).take (j + 1)).map (.write k) ++ [.result k .transportFailure] ∧
      t.txs.get? k = some Transmitter.idle ∧ t.rxs = s.rxs

/-- 60_exceptions R163: a send whose write is not answered waits: no other input to the machine changes the
transmitter, none of its bytes is offered and it returns no result. -/
def Obligations.UnansweredSendWaits : Prop :=
  ∀ (s t : State) (e : Input) (rest : List Input) (k : Nat) (tx : Transmitter),
    s.inputs = e :: rest → step s = .next t → (∀ a, e ≠ .answer k a) →
    s.txs.get? k = some tx → tx.busy = true →
    t.txs.get? k = some tx ∧ writesOf k t.outputs = writesOf k s.outputs ∧
      resultsOf k t.outputs = resultsOf k s.outputs

/-- 10_state sections 1 and 3, 40_crc_engine section 1: what the transmitter's instructions and CRC.UPDATE leave
unchanged: every receiver, every other transmitter, the inputs to come, and what was shown before. CRC.UPDATE changes no
transmitter. PUT leaves busy, crc, pending and the position but for `second`: that `tx.pending` and the position stay
across a PUT and move with the answer is the model's split of a send into steps (log entries 6 and 21). -/
def Obligations.TransmitterInstrFrame : Prop :=
  ∀ (i : Instr) (s t : State),
    (∃ p, i = .txSendFrame p) ∨ (∃ b, i = .txPutLiteral b) ∨ i = .txPutEscapedEsc ∨ i = .txPutEscapedFlag ∨
      (∃ c b, i = .crcUpdate c b) →
    exec i s = .next t →
    t.rxs = s.rxs ∧ t.txs.before = s.txs.before ∧ t.txs.after = s.txs.after ∧ t.inputs = s.inputs ∧
    t.consumer = s.consumer ∧ s.outputs <+: t.outputs ∧
    ((∀ p, i ≠ .txSendFrame p) →
      t.tx.busy = s.tx.busy ∧ t.tx.crc = s.tx.crc ∧ t.tx.pending = s.tx.pending ∧ t.tx.stage = s.tx.stage ∧
      t.tx.left = s.tx.left) ∧
    ((∃ c b, i = .crcUpdate c b) → t.txs = s.txs)

/-! ### Faults -/

/-- R154: the usage faults. A second send and a foreign write during a send are CONCURRENT_SEND; overlapping calls on
one receiver are CONCURRENT_RX; the consumer's call on the receiver that is emitting is REENTRANT_RX; no further step
clears a fault. -/
def Obligations.UsageFaults : Prop :=
  (∀ (s : State) (p : List Byte), s.tx.busy = true → exec (.txSendFrame p) s = .fault .concurrentSend) ∧
  (∀ (s : State) (v : Byte), s.rx.emitting = true → exec (.rxOnByte v) s = .fault .concurrentRx) ∧
  (∀ (s : State) (k : Nat) (rest : List Input) (tx : Transmitter),
    s.txs.get? k = some tx → tx.busy = true →
    (∀ p, s.inputs = .sendFrame k p :: rest → step s = .fault .concurrentSend) ∧
    (∀ x, s.inputs = .foreignWrite k x :: rest → step s = .fault .concurrentSend)) ∧
  (∀ (s : State) (r : Nat) (rest : List Input) (rx : Receiver), s.rxs.get? r = some rx →
    (∀ v, s.inputs = .rxOverlap r v :: rest → step s = .fault .concurrentRx) ∧
    (∀ v turn, s.inputs = .rxByte r v turn :: rest → rx.emitting = true → step s = .fault .concurrentRx) ∧
    (∀ v, s.inputs = .consumerByte r v :: rest → rx.emitting = true → step s = .fault .reentrantRx)) ∧
  ∀ (s : State) (f : Fault) (n : Nat), step s = .fault f → Sys2Proof.core.run (n + 1) s = .fault f

/-- 60_exceptions section 3: no instruction faults but a second send and an overlapping byte, and none is refused. -/
def Obligations.OnlyUsageFaults : Prop :=
  ∀ (i : Instr) (s : State),
    (∀ f, exec i s = .fault f →
      (∃ p, i = .txSendFrame p) ∧ s.tx.busy = true ∧ f = .concurrentSend ∨
      (∃ v, i = .rxOnByte v) ∧ s.rx.emitting = true ∧ f = .concurrentRx) ∧
    ∀ r, exec i s ≠ .refused r

/-- 60_exceptions section 7 (duties and liberties): a step on an input completes exactly when the input keeps the
environment's duties, and it consumes that input; whatever byte, payload or answer it carries. Which broken duty faults
and which is refused is R154 and, for the rest, the model's choice (log entry 11). -/
def Obligations.DutiesKeptCompletes : Prop :=
  ∀ (s : State) (e : Input) (rest : List Input), s.inputs = e :: rest →
    (dutyKept s e = true → ∃ t : State, step s = .next t ∧ t.inputs = rest) ∧
    (dutyKept s e = false → ∀ t : State, step s ≠ .next t)

/-! ### The machine -/

/-- The step runs the instruction its input comes to (log entry 1, the model's choice of how inputs reach the block): a
byte is RX.ON_BYTE on its receiver, a call is TX.SEND_FRAME or CRC.UPDATE, and an `ok` that leaves a payload or FCS byte
next is PUT of that byte, decoded. That `tx.pending`, the CRC and the position (stage and left, log entry 6) move, and
the PUT runs, in the step of the `ok` is the model's choice too (log entry 21). -/
def Obligations.StepRunsDecodedInstruction : Prop :=
  ∀ (s : State) (rest : List Input),
    (∀ r v turn q, s.inputs = .rxByte r v turn :: rest → s.rxs.select r = some q →
      step s = exec (.rxOnByte v) { s with inputs := rest, rxs := q, consumer := turn }) ∧
    (∀ k p q, s.inputs = .sendFrame k p :: rest → s.txs.select k = some q →
      step s = exec (.txSendFrame p) { s with inputs := rest, txs := q }) ∧
    (∀ c b, s.inputs = .crcUpdate c b :: rest → step s = exec (.crcUpdate c b) { s with inputs := rest }) ∧
    ∀ k q, s.inputs = .answer k .ok :: rest → s.txs.select k = some q → q.cur.busy = true →
      q.cur.second = none →
      (∀ b l, q.cur.stage = .payload → q.cur.left = b :: l →
        step s = exec (decodeTxb b)
          { s with inputs := rest
                   txs := { q with cur := { q.cur with
                     pending := q.cur.pending.tail, crc := update q.cur.crc b, left := l } } }) ∧
      (q.cur.stage = .payload → q.cur.left = [] →
        step s = exec (decodeTxb (lowByte (fcs q.cur.crc)))
          { s with inputs := rest
                   txs := { q with cur := { q.cur with
                     pending := q.cur.pending.tail, stage := .fcs, left := [highByte (fcs q.cur.crc)] } } }) ∧
      (∀ b l, q.cur.stage = .fcs → q.cur.left = b :: l →
        step s = exec (decodeTxb b)
          { s with inputs := rest
                   txs := { q with cur := { q.cur with pending := q.cur.pending.tail, left := l } } })

/-- A word placed for the next step is the instruction that step runs (log entries 1 and 13): an RXW word on the
addressed receiver, a TXB byte in the addressed transmitter's send. -/
def Obligations.PlacedWordRuns : Prop :=
  (∀ (s : State) (w : RxWord),
    step (s.withFetchWord 9 w.toNat) =
      exec (decodeRxw w)
        { s with rxs := { s.rxs with cur := { s.rx with esc := rxWordEsc w, emitting := false } }
                 consumer := .returnsAtOnce }) ∧
  ∀ (s : State) (b : Byte),
    step (s.withFetchWord 8 b.toNat) =
      exec (decodeTxb b)
        { s with txs := { s.txs with cur := { s.tx with
            busy := true, pending := stuff b ++ [0x7E], stage := .fcs, left := [], second := none } } }

/-- 60_exceptions R163 says that with no input there is no step to take; that a step of the model then answers the same
state is the model's choice (log entry 14). -/
def Obligations.IdleWithoutInput : Prop :=
  ∀ s : State, s.inputs = [] → step s = .next s

/-- 10_state section 5 (Reset values): the values after creation. The receiver's length, CRC and escape flag are the
spec's decision D4 (log entry 2); `tx.busy` and `tx.pending` are the spec's. The model's choices: the buffer lists no
cell (log entry 3), `tx.crc` is 0x0000 while idle (log entry 4), MRU is 64 at reset (the default; log entry 5), the
position inside a send is payload, empty, none (log entry 6), no emission is under way and the latched consumer turn is
`returnsAtOnce` (log entry 8), there is one instance of each kind and it is addressed (log entry 10), no input is to come
(log entry 1) and nothing has been shown (log entry 17). -/
def Obligations.ResetValues : Prop :=
  State.reset.rx.length = 0 ∧ State.reset.rx.crc = 0xFFFF ∧ State.reset.rx.esc = false ∧ State.reset.rx.mru = 64 ∧
  (∀ i : Nat, Memory.read State.reset.rx.buf i = none) ∧ State.reset.rx.emitting = false ∧
  State.reset.tx.busy = false ∧ State.reset.tx.pending = [] ∧ State.reset.tx.crc = 0x0000 ∧
  State.reset.tx.stage = .payload ∧ State.reset.tx.left = [] ∧ State.reset.tx.second = none ∧
  State.reset.rxs.toList.length = 1 ∧ State.reset.txs.toList.length = 1 ∧
  State.reset.rxs.here = 0 ∧ State.reset.txs.here = 0 ∧
  State.reset.inputs = [] ∧ State.reset.consumer = .returnsAtOnce ∧ State.reset.outputs = []

/-- 70_reset_and_hazards section 1: creating a receiver takes an MRU of at least 1 (00_scope R6) and adds an instance
with length 0, CRC 0xFFFF and escape flag 0 (10_state R30: the spec's decision D4, log entry 2); no other instance
changes. The model's choices: the buffer, unspecified in R30, lists no cell (log entry 3), the new instance has the next
number, at the end of the list (log entry 10), and MRU 0 is refused (log entry 11). -/
def Obligations.NewReceiverCreated : Prop :=
  ∀ (s : State) (mru : Nat) (rest : List Input), s.inputs = .newReceiver mru :: rest →
    (1 ≤ mru → ∃ t : State, ∃ rx : Receiver, step s = .next t ∧ t.rxs.toList = s.rxs.toList ++ [rx] ∧
      rx.mru = mru ∧ rx.length = 0 ∧ rx.crc = 0xFFFF ∧ rx.esc = false ∧ rx.buf = [] ∧
      t.txs = s.txs ∧ t.outputs = s.outputs) ∧
    (mru = 0 → step s = .refused (.illegalMru 0))

/-- Every receiver and every transmitter is well formed after reset (log entries 2 to 6, 8, 10). -/
def Obligations.ResetMeetsInvariant : Prop :=
  State.reset.inv

/-- 10_state section 1 (R22's range, R34(a)), section 2 (R27): every step keeps every receiver and every transmitter
well formed: `rx.length` below MRU, the buffer canonical and written below `rx.length`, `tx.pending` the outstanding byte
and what the send still has to offer. The parts about the model's own fields, and the idle transmitter's `tx.crc`, are
the model's choice (log entries 4, 6, 8). -/
def Obligations.StepKeepsInvariant : Prop :=
  ∀ s t : State, s.inv → step s = .next t → t.inv

/-- 00_scope section 3, 10_state section 4 (MRU): no step changes the MRU of a receiver or removes a receiver. -/
def Obligations.MruNeverChanges : Prop :=
  ∀ (s t : State) (r : Nat) (rx : Receiver), step s = .next t → s.rxs.get? r = some rx →
    ∃ rx' : Receiver, t.rxs.get? r = some rx' ∧ rx'.mru = rx.mru

/-- 10_state section 1 (only the receiver's own RX.ON_BYTE changes receiver state): an input that is no call on receiver
`r`, nor the end of one, leaves receiver `r` exactly as it was. -/
def Obligations.OnlyOwnCallsChangeReceiver : Prop :=
  ∀ (s t : State) (e : Input) (rest : List Input) (r : Nat) (rx : Receiver),
    s.inputs = e :: rest → step s = .next t → e.receiver? ≠ some r → s.rxs.get? r = some rx →
    t.rxs.get? r = some rx

/-- 20_memory section 3 (nothing rolls a written byte back), section 5 (an emitted frame is a snapshot): what has been
shown stays shown. That it is kept in one record, to which a step adds at the end, is the model's choice (log
entry 17). -/
def Obligations.OutputsOnlyGrow : Prop :=
  ∀ s t : State, step s = .next t → s.outputs <+: t.outputs

/-- 20_memory section 5 (steps of different instances commute): two inputs that keep the duties and act on different
instances both complete in either order and give the same instances and the same observations of each. Two creations of
receivers are left out: their order is the numbering. The order of CRC.UPDATE results, which belong to no instance, is
not compared. -/
def Obligations.InstancesCommute : Prop :=
  ∀ (s : State) (e1 e2 : Input),
    dutyKept s e1 = true → dutyKept s e2 = true →
    (∀ r, e1.receiver? = some r → e2.receiver? ≠ some r) →
    (∀ k, e1.transmitter? = some k → e2.transmitter? ≠ some k) →
    (∀ m m', e1 = .newReceiver m → e2 ≠ .newReceiver m') →
    ∃ t12 t21 : State, s.runOn [e1, e2] = .next t12 ∧ s.runOn [e2, e1] = .next t21 ∧
      t12.rxs.toList = t21.rxs.toList ∧ t12.txs.toList = t21.txs.toList ∧
      ∀ k : Nat, emissionsOf k t12.outputs = emissionsOf k t21.outputs ∧
        writesOf k t12.outputs = writesOf k t21.outputs ∧ resultsOf k t12.outputs = resultsOf k t21.outputs

/-- 10_state sections 2 and 3, 42_frame_transmitter section 3: only its own calls change a transmitter. An input that is
no call, answer or foreign write of transmitter `k` leaves it exactly as it was, offers none of its bytes and returns no
result of it; and an idle one is changed by its own TX.SEND_FRAME only. That another writer's byte on the transport of an
idle transmitter is no event of the block is deduced (log entry 18). -/
def Obligations.OnlyOwnCallsChangeTransmitter : Prop :=
  ∀ (s t : State) (e : Input) (rest : List Input) (k : Nat) (tx : Transmitter),
    s.inputs = e :: rest → step s = .next t → s.txs.get? k = some tx →
    e.transmitter? ≠ some k ∨ (tx.busy = false ∧ ∀ p, e ≠ .sendFrame k p) →
    t.txs.get? k = some tx ∧ writesOf k t.outputs = writesOf k s.outputs ∧
      resultsOf k t.outputs = resultsOf k s.outputs
end

