-- ==== Sys2Proof/Laws/Crc.lean ====
section
/-! SUPPORT. The CRC fold as a list operation, and what each part of an update is. -/

namespace Sys2Proof.Machine

@[simp] theorem fold_nil (c : Crc) : fold c [] = c := rfl

@[simp] theorem fold_cons (c : Crc) (b : Byte) (s : List Byte) : fold c (b :: s) = fold (update c b) s := rfl

@[simp] theorem fold_append (c : Crc) (s t : List Byte) : fold c (s ++ t) = fold (fold c s) t := by
  simp [fold]

theorem tableIndex_eq_lowByte (c : Crc) (b : Byte) : tableIndex c b = lowByte (c ^^^ b.setWidth 16) := rfl

/-- A 16-bit value is its high byte and its low byte. -/
theorem crc_eq_bytes (c : Crc) : c = (highByte c).setWidth 16 <<< 8 ^^^ (lowByte c).setWidth 16 := by
  unfold highByte lowByte
  ext i hi
  simp
  by_cases h : i < 8 <;> simp [h] <;> grind

/-- The bit-serial form is linear: it shifts and folds the polynomial bit by bit. -/
theorem serialShift_xor (n : Nat) (c d : Crc) : serialShift n (c ^^^ d) = serialShift n c ^^^ serialShift n d := by
  induction n generalizing c d with
  | zero => rfl
  | succ n ih =>
    simp only [serialShift, BitVec.getLsbD_xor]
    rw [← ih]
    congr 1
    cases c.getLsbD 0 <;> cases d.getLsbD 0 <;> simp [BitVec.ushiftRight_xor_distrib] <;>
      (ext i; simp <;> grind)

end Sys2Proof.Machine
end

