-- ==== Sys2Proof/Laws/State.lean ====
section
/-! SUPPORT. One lemma per field per update of State, so that no proof unfolds a record update. -/

namespace Sys2Proof.Machine

variable (s : State) (rx : Receiver) (tx : Transmitter) (o : Output) (x : Byte) (r : Result)

@[simp] theorem setRx_rx : (s.setRx rx).rx = rx := rfl
@[simp] theorem setRx_tx : (s.setRx rx).tx = s.tx := rfl
@[simp] theorem setRx_rxs : (s.setRx rx).rxs = { s.rxs with cur := rx } := rfl
@[simp] theorem setRx_txs : (s.setRx rx).txs = s.txs := rfl
@[simp] theorem setRx_inputs : (s.setRx rx).inputs = s.inputs := rfl
@[simp] theorem setRx_consumer : (s.setRx rx).consumer = s.consumer := rfl
@[simp] theorem setRx_outputs : (s.setRx rx).outputs = s.outputs := rfl

@[simp] theorem setTx_tx : (s.setTx tx).tx = tx := rfl
@[simp] theorem setTx_rx : (s.setTx tx).rx = s.rx := rfl
@[simp] theorem setTx_txs : (s.setTx tx).txs = { s.txs with cur := tx } := rfl
@[simp] theorem setTx_rxs : (s.setTx tx).rxs = s.rxs := rfl
@[simp] theorem setTx_inputs : (s.setTx tx).inputs = s.inputs := rfl
@[simp] theorem setTx_consumer : (s.setTx tx).consumer = s.consumer := rfl
@[simp] theorem setTx_outputs : (s.setTx tx).outputs = s.outputs := rfl

@[simp] theorem output_outputs : (s.output o).outputs = s.outputs ++ [o] := rfl
@[simp] theorem output_rx : (s.output o).rx = s.rx := rfl
@[simp] theorem output_tx : (s.output o).tx = s.tx := rfl
@[simp] theorem output_rxs : (s.output o).rxs = s.rxs := rfl
@[simp] theorem output_txs : (s.output o).txs = s.txs := rfl
@[simp] theorem output_inputs : (s.output o).inputs = s.inputs := rfl
@[simp] theorem output_consumer : (s.output o).consumer = s.consumer := rfl

@[simp] theorem emit_outputs : s.emit.outputs =
    s.outputs ++ [.emission s.rxs.here (Receiver.payload s.rxs.here s.rx)] := rfl
@[simp] theorem emit_rx : s.emit.rx = s.rx := rfl
@[simp] theorem emit_rxs : s.emit.rxs = s.rxs := rfl
@[simp] theorem emit_txs : s.emit.txs = s.txs := rfl
@[simp] theorem emit_inputs : s.emit.inputs = s.inputs := rfl
@[simp] theorem emit_consumer : s.emit.consumer = s.consumer := rfl

@[simp] theorem offer_outputs : (s.offer x).outputs = s.outputs ++ [.write s.txs.here x] := rfl
@[simp] theorem offer_tx : (s.offer x).tx = s.tx := rfl
@[simp] theorem offer_rxs : (s.offer x).rxs = s.rxs := rfl
@[simp] theorem offer_txs : (s.offer x).txs = s.txs := rfl
@[simp] theorem offer_inputs : (s.offer x).inputs = s.inputs := rfl
@[simp] theorem offer_consumer : (s.offer x).consumer = s.consumer := rfl

@[simp] theorem endSend_outputs : (s.endSend r).outputs = s.outputs ++ [.result s.txs.here r] := rfl
@[simp] theorem endSend_tx : (s.endSend r).tx = Transmitter.idle := rfl
@[simp] theorem endSend_rxs : (s.endSend r).rxs = s.rxs := rfl
@[simp] theorem endSend_txs : (s.endSend r).txs = { s.txs with cur := Transmitter.idle } := rfl
@[simp] theorem endSend_inputs : (s.endSend r).inputs = s.inputs := rfl
@[simp] theorem endSend_consumer : (s.endSend r).consumer = s.consumer := rfl

@[simp] theorem endEmission_rxs :
    s.endEmission.rxs = { s.rxs with cur := { s.rx.restart with emitting := false } } := rfl
@[simp] theorem endEmission_txs : s.endEmission.txs = s.txs := rfl
@[simp] theorem endEmission_inputs : s.endEmission.inputs = s.inputs := rfl
@[simp] theorem endEmission_outputs : s.endEmission.outputs = s.outputs := rfl

@[simp] theorem restart_mru : rx.restart.mru = rx.mru := rfl
@[simp] theorem restart_crc : rx.restart.crc = 0xFFFF := rfl
@[simp] theorem restart_length : rx.restart.length = 0 := rfl
@[simp] theorem restart_esc : rx.restart.esc = false := rfl
@[simp] theorem restart_buf : rx.restart.buf = rx.buf := rfl
@[simp] theorem restart_emitting : rx.restart.emitting = rx.emitting := rfl

@[simp] theorem answered_busy : tx.answered.busy = tx.busy := rfl
@[simp] theorem answered_crc : tx.answered.crc = tx.crc := rfl
@[simp] theorem answered_pending : tx.answered.pending = tx.pending.tail := rfl
@[simp] theorem answered_stage : tx.answered.stage = tx.stage := rfl
@[simp] theorem answered_left : tx.answered.left = tx.left := rfl
@[simp] theorem answered_second : tx.answered.second = tx.second := rfl

end Sys2Proof.Machine
end

