-- ==== Sys2Proof/Laws/Receiver.lean ====
section
/-! SUPPORT. What the receiver's shared operations do, said once: the store procedure, the classes, RX.ON_BYTE. -/

namespace Sys2Proof.Machine

open Config

/-- STORE without a wrap (41_frame_receiver R104). -/
theorem store_noWrap {rx : Receiver} (b : Byte) (h : rx.length + 1 ≠ rx.mru) :
    rx.store b = { rx with
      buf := Memory.write rx.buf rx.length b, crc := update rx.crc b, length := rx.length + 1 } := by
  simp [Receiver.store, Receiver.full, h]

/-- STORE with the overflow wrap (41_frame_receiver R104). -/
theorem store_wrap {rx : Receiver} (b : Byte) (h : rx.length + 1 = rx.mru) :
    rx.store b = { rx with
      buf := Memory.write rx.buf rx.length b, crc := update rx.crc b ^^^ WRAPXOR, length := 0 } := by
  simp [Receiver.store, Receiver.full, h]

@[simp] theorem store_mru (rx : Receiver) (b : Byte) : (rx.store b).mru = rx.mru := by
  unfold Receiver.store
  simp only []
  split <;> rfl

@[simp] theorem store_esc (rx : Receiver) (b : Byte) : (rx.store b).esc = rx.esc := by
  unfold Receiver.store
  simp only []
  split <;> rfl

@[simp] theorem store_emitting (rx : Receiver) (b : Byte) : (rx.store b).emitting = rx.emitting := by
  unfold Receiver.store
  simp only []
  split <;> rfl

@[simp] theorem store_buf (rx : Receiver) (b : Byte) : (rx.store b).buf = Memory.write rx.buf rx.length b := by
  unfold Receiver.store
  simp only []
  split <;> rfl

/-- The store keeps a receiver that is in no emission well formed. -/
theorem store_wf {rx : Receiver} (h : rx.wf) (he : rx.emitting = false) (b : Byte) : (rx.store b).wf := by
  obtain ⟨h1, h2, h3, h4, h5, -⟩ := h
  refine ⟨by simpa using h1, ?_, by simpa using Memory.write_wf h3 _ _,
    by simpa using Memory.write_below h4 h2 b, ?_, by simp [he]⟩
  · by_cases hw : rx.length + 1 = rx.mru
    · rw [store_wrap b hw]
      show 0 < rx.mru
      omega
    · rw [store_noWrap b hw]
      show rx.length + 1 < rx.mru
      omega
  · intro i hi
    rw [store_buf, Memory.read_write]
    split
    · rfl
    · by_cases hw : rx.length + 1 = rx.mru
      · rw [store_wrap b hw] at hi
        exact absurd hi (Nat.not_lt_zero i)
      · rw [store_noWrap b hw] at hi
        exact h5 i (by have : i < rx.length + 1 := hi
                       omega)

/-- The reset of a FLAG keeps a receiver that is in no emission well formed. -/
theorem restart_wf {rx : Receiver} (h : rx.wf) (he : rx.emitting = false) : rx.restart.wf := by
  obtain ⟨h1, h2, h3, h4, -, -⟩ := h
  exact ⟨h1, h1, h3, h4, fun i hi => absurd hi (Nat.not_lt_zero i), by simp [he]⟩

/-- The reset that ends an emission leaves a well-formed receiver. -/
theorem restart_done_wf {rx : Receiver} (h : rx.wf) : Receiver.wf { rx.restart with emitting := false } := by
  obtain ⟨h1, h2, h3, h4, -, -⟩ := h
  exact ⟨h1, h1, h3, h4, fun i hi => absurd hi (Nat.not_lt_zero i), by simp⟩

@[simp] theorem cells_length (r : Nat) (rx : Receiver) (n : Nat) : (Receiver.cells r rx n).length = n := by
  simp [Receiver.cells]

@[simp] theorem payload_length (r : Nat) (rx : Receiver) : (Receiver.payload r rx).length = rx.length - 2 := by
  simp [Receiver.payload]

/-- What one wire byte does to a receiver whose consumer returns at once: the receiver after it, and what is shown. -/
def byteEffect (r : Nat) (rx : Receiver) (v : Byte) : Receiver × List Output :=
  match rxClass rx.esc v with
  | .flag => (rx.restart, if rx.accepts then [.emission r (Receiver.payload r rx)] else [])
  | .flagAbort => (rx.restart, [])
  | .esc => ({ rx with esc := true }, [])
  | .escData v => (Receiver.store { rx with esc := false } (masked v), [])
  | .data v => (rx.store v, [])

/-- What a sequence of wire bytes does, byte by byte. -/
def wireEffect (r : Nat) (rx : Receiver) : List Byte → Receiver × List Output
  | [] => (rx, [])
  | v :: wire =>
    ((wireEffect r (byteEffect r rx v).1 wire).1,
      (byteEffect r rx v).2 ++ (wireEffect r (byteEffect r rx v).1 wire).2)

/-- Class RX.FLAG is exactly a FLAG with no escape pending (30_encoding R61). -/
theorem rxClass_eq_flag {esc : Bool} {v : Byte} : rxClass esc v = .flag ↔ esc = false ∧ v = FLAG := by
  unfold rxClass
  by_cases h : esc = false ∧ v = FLAG
  · rw [if_pos h]
    exact ⟨fun _ => h, fun _ => rfl⟩
  · rw [if_neg h]
    refine ⟨fun hf => ?_, fun hf => absurd hf h⟩
    repeat' split at hf
    all_goals cases hf

/-- RX.ON_BYTE on a receiver in no emission, with a consumer that returns at once, is `byteEffect`. -/
theorem execRxOnByte_returns {s : State} {v : Byte} (he : s.rx.emitting = false)
    (hc : s.consumer = .returnsAtOnce) :
    execRxOnByte v s = .next
      { s with
        rxs := { s.rxs with cur := (byteEffect s.rxs.here s.rx v).1 }
        outputs := s.outputs ++ (byteEffect s.rxs.here s.rx v).2 } := by
  unfold execRxOnByte byteEffect
  rw [if_neg (by simp [he])]
  cases rxClass s.rx.esc v with
  | flag =>
    show execRxFlag s = _
    unfold execRxFlag
    rw [hc]
    by_cases ha : s.rx.accepts
    · simp only [if_pos ha, State.setRx, State.emit, State.output, hc]
    · simp only [if_neg ha, State.setRx, hc, List.append_nil]
  | flagAbort => simp [execRxFlagAbort, State.setRx]
  | esc => simp [execRxEsc, State.setRx]
  | escData v => simp [execRxEscData, State.setRx]
  | data v => simp [execRxData, State.setRx]

/-- Everything RX.ON_BYTE can do, with any consumer: one receiver is written, at most one emission is shown, and the
receiver is left in an emission only on an accepted run with no escape pending, its registers unchanged. -/
theorem execRxOnByte_next {s t : State} {v : Byte} (h : execRxOnByte v s = .next t) :
    s.rx.emitting = false ∧
    (t = { s with
        rxs := { s.rxs with cur := (byteEffect s.rxs.here s.rx v).1 }
        outputs := s.outputs ++ (byteEffect s.rxs.here s.rx v).2 } ∨
      s.consumer = .staysInCall ∧ s.rx.accepts ∧ s.rx.esc = false ∧ v = FLAG ∧
        t = s.emit.setRx { s.rx with emitting := true }) := by
  unfold execRxOnByte at h
  split at h
  · cases h
  · rename_i he
    refine ⟨by simpa using he, ?_⟩
    unfold byteEffect
    cases hk : rxClass s.rx.esc v with
    | flag =>
      simp only [hk] at h
      unfold execRxFlag at h
      by_cases ha : s.rx.accepts
      · rw [if_pos ha] at h
        cases hc : s.consumer with
        | returnsAtOnce =>
          rw [hc] at h
          cases h
          left
          simp only [if_pos ha, State.setRx, State.emit, State.output, hc]
        | staysInCall =>
          rw [hc] at h
          cases h
          obtain ⟨hesc, hv⟩ := rxClass_eq_flag.1 hk
          exact .inr ⟨rfl, ha, hesc, hv, rfl⟩
      · rw [if_neg ha] at h
        cases h
        left
        simp [if_neg ha, State.setRx]
    | flagAbort =>
      simp only [hk] at h
      cases h
      simp [State.setRx]
    | esc =>
      simp only [hk] at h
      cases h
      simp [State.setRx]
    | escData v =>
      simp only [hk] at h
      cases h
      simp [State.setRx]
    | data v =>
      simp only [hk] at h
      cases h
      simp [State.setRx]

/-- One wire byte keeps a receiver that is in no emission well formed, and in none. -/
theorem byteEffect_wf {r : Nat} {rx : Receiver} (h : rx.wf) (he : rx.emitting = false) (v : Byte) :
    (byteEffect r rx v).1.wf ∧ (byteEffect r rx v).1.emitting = false := by
  have hr : Receiver.wf rx.restart := restart_wf h he
  obtain ⟨h1, h2, h3, h4, h5, -⟩ := h
  unfold byteEffect
  cases rxClass rx.esc v with
  | flag => exact ⟨hr, he⟩
  | flagAbort => exact ⟨hr, he⟩
  | esc => exact ⟨⟨h1, h2, h3, h4, h5, by simp [he]⟩, he⟩
  | escData v =>
    refine ⟨store_wf (rx := { rx with esc := false }) ⟨h1, h2, h3, h4, h5, ?_⟩ he _, by simpa using he⟩
    simp [he]
  | data v => exact ⟨store_wf ⟨h1, h2, h3, h4, h5, by simp [he]⟩ he _, by simpa using he⟩

@[simp] theorem byteEffect_emitting (r : Nat) (rx : Receiver) (v : Byte) :
    (byteEffect r rx v).1.emitting = rx.emitting := by
  unfold byteEffect
  cases rxClass rx.esc v <;> simp

@[simp] theorem byteEffect_mru (r : Nat) (rx : Receiver) (v : Byte) : (byteEffect r rx v).1.mru = rx.mru := by
  unfold byteEffect
  cases rxClass rx.esc v <;> simp

end Sys2Proof.Machine
end

