-- ==== Sys2Proof/Laws/Stuffing.lean ====
section
/-! SUPPORT. Stuffing as a list operation (30_encoding R62, R63). -/

namespace Sys2Proof.Machine

open Config

@[simp] theorem stuffAll_nil : stuffAll [] = [] := rfl

@[simp] theorem stuffAll_cons (b : Byte) (s : List Byte) : stuffAll (b :: s) = stuff b ++ stuffAll s := rfl

@[simp] theorem stuffAll_append (s t : List Byte) : stuffAll (s ++ t) = stuffAll s ++ stuffAll t := by
  simp [stuffAll]

theorem stuff_esc : stuff ESC = [ESC, masked ESC] := rfl

theorem stuff_flag : stuff FLAG = [ESC, masked FLAG] := rfl

theorem stuff_literal {b : Byte} (h1 : b ≠ ESC) (h2 : b ≠ FLAG) : stuff b = [b] := by
  unfold stuff
  rw [if_neg (not_or.2 ⟨h1, h2⟩)]

/-- Masking twice gives the byte back. -/
@[simp] theorem masked_masked (b : Byte) : masked (masked b) = b := by
  simp [masked]

/-- The FCS bytes are two more stuffed bytes after the payload. -/
theorem encodeFrame_eq (p : List Byte) :
    encodeFrame p = FLAG ::
      (stuffAll (p ++ [lowByte (fcs (fold SEED p)), highByte (fcs (fold SEED p))]) ++ [FLAG]) := by
  simp [encodeFrame, stuffFcs]

/-- The first wire byte of a frame is the opening FLAG. -/
theorem encodeFrame_head (p : List Byte) : encodeFrame p = FLAG :: (encodeFrame p).tail := by
  simp [encodeFrame_eq]

end Sys2Proof.Machine
end

