-- ==== Sys2Proof/Laws/Transmitter.lean ====
section
/-! SUPPORT. What the transmitter's shared operations do, said once: PUT of a decoded byte, and a write answered
`ok`. -/

namespace Sys2Proof.Machine

open Config

/-- What PUT(b) does to the addressed transmitter, and what it shows (42_frame_transmitter R135). -/
def putEffect (k : Nat) (tx : Transmitter) (b : Byte) : Transmitter × List Output :=
  if b = ESC ∨ b = FLAG then ({ tx with second := some (masked b) }, [.write k ESC]) else (tx, [.write k b])

/-- The decoded byte's meaning is `putEffect`, whichever of the three classes it is. -/
theorem exec_decodeTxb (b : Byte) (s : State) :
    exec (decodeTxb b) s = .next
      { s with
        txs := { s.txs with cur := (putEffect s.txs.here s.tx b).1 }
        outputs := s.outputs ++ (putEffect s.txs.here s.tx b).2 } := by
  unfold decodeTxb putEffect
  by_cases h1 : b = ESC
  · subst h1
    rfl
  · by_cases h2 : b = FLAG
    · subst h2
      rfl
    · rw [if_neg h1, if_neg h2, if_neg (not_or.2 ⟨h1, h2⟩)]
      rfl

/-- What a write answered `ok` does to a busy transmitter, and what it shows (42_frame_transmitter R130, R132). -/
def okEffect (k : Nat) (tx : Transmitter) : Transmitter × List Output :=
  match tx.answered.advance with
  | .put b tx' => putEffect k tx' b
  | .write x tx' => (tx', [.write k x])
  | .succeed => (Transmitter.idle, [.result k .success])

/-- PUT of a byte on a transmitter with no escaped pair open: the first byte of `stuff(b)` is offered and the rest of
it is to come before everything else. -/
theorem putEffect_spec (k : Nat) (tx : Transmitter) (b : Byte) (h : tx.second = none) :
    ∃ x tx', putEffect k tx b = (tx', [.write k x]) ∧ tx'.busy = tx.busy ∧ tx'.pending = tx.pending ∧
      tx'.crc = tx.crc ∧ stuff b ++ tx.toCome = x :: tx'.toCome := by
  unfold putEffect
  by_cases hb : b = ESC ∨ b = FLAG
  · rw [if_pos hb]
    refine ⟨_, _, rfl, rfl, rfl, rfl, ?_⟩
    unfold stuff
    rw [if_pos hb]
    simp [Transmitter.toCome, h]
  · rw [if_neg hb]
    refine ⟨_, _, rfl, rfl, rfl, rfl, ?_⟩
    unfold stuff
    rw [if_neg hb]
    rfl

/-- Everything an `ok` can do to a well-formed busy transmitter: it offers the next byte to come, which is now the
outstanding one, or, with none to come, ends the send with Success. -/
theorem okEffect_spec (k : Nat) (tx : Transmitter) (hb : tx.busy = true) (hw : tx.wf) :
    (∀ x xs, tx.pending.tail = x :: xs → ∃ tx', okEffect k tx = (tx', [.write k x]) ∧ tx'.busy = true ∧
      tx'.pending = x :: xs ∧ tx'.wf) ∧
    (tx.pending.tail = [] → okEffect k tx = (Transmitter.idle, [.result k .success])) := by
  rw [Transmitter.wf, if_pos hb] at hw
  obtain ⟨-, hw⟩ := hw
  have put_case : ∀ (b : Byte) (u : Transmitter), tx.answered.advance = .put b u → u.second = none →
      u.busy = true → u.pending = tx.pending.tail → tx.toCome = stuff b ++ u.toCome →
      (∀ x xs, tx.pending.tail = x :: xs → ∃ tx', okEffect k tx = (tx', [.write k x]) ∧ tx'.busy = true ∧
        tx'.pending = x :: xs ∧ tx'.wf) ∧
      (tx.pending.tail = [] → okEffect k tx = (Transmitter.idle, [.result k .success])) := by
    intro b u ha hs hub hup ht
    obtain ⟨x, tx', h1, h2, h3, -, h5⟩ := putEffect_spec k u b hs
    have hall : tx.pending.tail = x :: tx'.toCome := by rw [hw, ht, h5]
    refine ⟨fun y ys hy => ?_, fun hy => by simp [hy] at hall⟩
    rw [hall] at hy
    cases hy
    refine ⟨tx', by simp [okEffect, ha, h1], h2.trans hub, by rw [h3, hup, hall], ?_⟩
    rw [Transmitter.wf, if_pos (h2.trans hub), h3, hup, hall]
    simp
  have write_case : ∀ (b : Byte) (u : Transmitter), tx.answered.advance = .write b u →
      u.busy = true → u.pending = tx.pending.tail → tx.toCome = b :: u.toCome →
      (∀ x xs, tx.pending.tail = x :: xs → ∃ tx', okEffect k tx = (tx', [.write k x]) ∧ tx'.busy = true ∧
        tx'.pending = x :: xs ∧ tx'.wf) ∧
      (tx.pending.tail = [] → okEffect k tx = (Transmitter.idle, [.result k .success])) := by
    intro b u ha hub hup ht
    have hall : tx.pending.tail = b :: u.toCome := by rw [hw, ht]
    refine ⟨fun y ys hy => ?_, fun hy => by simp [hy] at hall⟩
    rw [hall] at hy
    cases hy
    refine ⟨u, by simp [okEffect, ha], hub, by rw [hup, hall], ?_⟩
    rw [Transmitter.wf, if_pos hub, hup, hall]
    simp
  rcases tx with ⟨busy, crc, pending, stage, left, second⟩
  cases second with
  | some y => exact write_case y _ rfl hb rfl (by simp [Transmitter.toCome])
  | none =>
    cases stage with
    | payload =>
      cases left with
      | nil => exact put_case _ _ rfl rfl hb rfl (by simp [Transmitter.toCome, stuffFcs])
      | cons b l => exact put_case _ _ rfl rfl hb rfl (by simp [Transmitter.toCome])
    | fcs =>
      cases left with
      | nil => exact write_case _ _ rfl hb rfl (by simp [Transmitter.toCome])
      | cons b l => exact put_case _ _ rfl rfl hb rfl (by simp [Transmitter.toCome])
    | closing =>
      refine ⟨fun x xs hx => ?_, fun _ => rfl⟩
      rw [hw] at hx
      simp [Transmitter.toCome] at hx

end Sys2Proof.Machine
end

