-- ==== Sys2Proof/Laws/Observations.lean ====
section
/-! SUPPORT. The observations of one instance (60_exceptions R150): what a further output adds to them, and which
instance each operation shows something of. -/

namespace Sys2Proof.Machine

variable {k : Nat} {os os' : List Output}

@[simp] theorem writesOf_append : writesOf k (os ++ os') = writesOf k os ++ writesOf k os' := by
  simp [writesOf]

@[simp] theorem resultsOf_append : resultsOf k (os ++ os') = resultsOf k os ++ resultsOf k os' := by
  simp [resultsOf]

@[simp] theorem emissionsOf_append : emissionsOf k (os ++ os') = emissionsOf k os ++ emissionsOf k os' := by
  simp [emissionsOf]

@[simp] theorem writesOf_write (j : Nat) (x : Byte) : writesOf k [.write j x] = if j = k then [x] else [] := by
  by_cases h : j = k <;> simp [writesOf, h]

@[simp] theorem writesOf_result (j : Nat) (r : Result) : writesOf k [.result j r] = [] := rfl

@[simp] theorem writesOf_emission (j : Nat) (b : List Byte) : writesOf k [.emission j b] = [] := rfl

@[simp] theorem writesOf_crc (v : Crc) : writesOf k [.crc v] = [] := rfl

@[simp] theorem resultsOf_result (j : Nat) (r : Result) : resultsOf k [.result j r] = if j = k then [r] else [] := by
  by_cases h : j = k <;> simp [resultsOf, h]

@[simp] theorem resultsOf_write (j : Nat) (x : Byte) : resultsOf k [.write j x] = [] := rfl

@[simp] theorem resultsOf_emission (j : Nat) (b : List Byte) : resultsOf k [.emission j b] = [] := rfl

@[simp] theorem resultsOf_crc (v : Crc) : resultsOf k [.crc v] = [] := rfl

@[simp] theorem emissionsOf_emission (j : Nat) (b : List Byte) :
    emissionsOf k [.emission j b] = if j = k then [b] else [] := by
  by_cases h : j = k <;> simp [emissionsOf, h]

@[simp] theorem emissionsOf_write (j : Nat) (x : Byte) : emissionsOf k [.write j x] = [] := rfl

@[simp] theorem emissionsOf_result (j : Nat) (r : Result) : emissionsOf k [.result j r] = [] := rfl

@[simp] theorem emissionsOf_crc (v : Crc) : emissionsOf k [.crc v] = [] := rfl

/-- A write answered `ok` shows one thing: the transmitter's next byte, or its Success. -/
theorem okEffect_shows (k : Nat) (tx : Transmitter) :
    (∃ x, (okEffect k tx).2 = [.write k x]) ∨ (okEffect k tx).2 = [.result k .success] := by
  unfold okEffect putEffect
  cases tx.answered.advance with
  | put b tx' =>
    left
    simp only []
    split
    · exact ⟨_, rfl⟩
    · exact ⟨_, rfl⟩
  | write x tx' => exact .inl ⟨x, rfl⟩
  | succeed => exact .inr rfl

/-- RX.ON_BYTE shows nothing, or one emission of the addressed receiver. -/
theorem execRxOnByte_shows {s t : State} {v : Byte} (h : execRxOnByte v s = .next t) :
    t.txs = s.txs ∧ (t.outputs = s.outputs ∨ ∃ bytes, t.outputs = s.outputs ++ [.emission s.rxs.here bytes]) := by
  obtain ⟨-, rfl | ⟨-, -, -, -, rfl⟩⟩ := execRxOnByte_next h
  · refine ⟨rfl, ?_⟩
    simp only [byteEffect]
    cases rxClass s.rx.esc v with
    | flag =>
      simp only []
      split
      · exact .inr ⟨_, rfl⟩
      · exact .inl (List.append_nil _)
    | flagAbort => exact .inl (List.append_nil _)
    | esc => exact .inl (List.append_nil _)
    | escData v => exact .inl (List.append_nil _)
    | data v => exact .inl (List.append_nil _)
  · exact ⟨rfl, .inr ⟨_, rfl⟩⟩

end Sys2Proof.Machine
end

