-- ==== Sys2Proof/Laws/PerInstr.lean ====
section
/-! SUPPORT. Statements for all instructions, one lemma per constructor. -/

namespace Sys2Proof.Laws

open Config

/-- The bits of a well-formed instruction have the width of its format, and the first row of the opcode table that they
fit is its own; an instruction without bits is an operation. -/
def RowFit.Statement (i : Instr) : Prop :=
  i.wellFormed = true →
    (encode i = none ↔ i.format = .operation) ∧
    ∀ e ∈ encode i, (e.1 = 9 ∧ i.format = .rxw ∨ e.1 = 8 ∧ i.format = .txb) ∧ e.2 < 2 ^ e.1 ∧
      tableMnemonic i.format e.2 = some i.mnemonic

theorem RowFit.rxFlag : RowFit.Statement .rxFlag := by unfold RowFit.Statement; decide

theorem RowFit.rxFlagAbort : RowFit.Statement .rxFlagAbort := by unfold RowFit.Statement; decide

theorem RowFit.rxEsc : RowFit.Statement .rxEsc := by unfold RowFit.Statement; decide

theorem RowFit.rxEscData (v : Byte) : RowFit.Statement (.rxEscData v) := by
  unfold RowFit.Statement
  revert v
  decide

theorem RowFit.rxData (v : Byte) : RowFit.Statement (.rxData v) := by
  unfold RowFit.Statement
  revert v
  decide

theorem RowFit.txPutEscapedEsc : RowFit.Statement .txPutEscapedEsc := by unfold RowFit.Statement; decide

theorem RowFit.txPutEscapedFlag : RowFit.Statement .txPutEscapedFlag := by unfold RowFit.Statement; decide

theorem RowFit.txPutLiteral (b : Byte) : RowFit.Statement (.txPutLiteral b) := by
  unfold RowFit.Statement
  revert b
  decide

theorem RowFit.crcUpdate (crc : Crc) (byte : Byte) : RowFit.Statement (.crcUpdate crc byte) := by
  simp [RowFit.Statement, encode, Instr.format]

theorem RowFit.rxOnByte (v : Byte) : RowFit.Statement (.rxOnByte v) := by
  simp [RowFit.Statement, encode, Instr.format]

theorem RowFit.txSendFrame (payload : List Byte) : RowFit.Statement (.txSendFrame payload) := by
  simp [RowFit.Statement, encode, Instr.format]

end Sys2Proof.Laws
end

