-- ==== Sys2Proof/Laws/Pool.lean ====
section
/-! SUPPORT. Addressing an instance changes no instance, and writing the addressed one changes no other
(60_exceptions R161, 20_memory R56). -/

namespace Sys2Proof.Machine

variable {α : Type}

/-- Everything a selection can do: the same instances, with number `k` addressed. -/
theorem Pool.select_some {p q : Pool α} {k : Nat} (h : p.select k = some q) :
    q.toList = p.toList ∧ q.here = k ∧ p.get? k = some q.cur := by
  unfold Pool.select at h
  split at h
  · cases h
  · rename_i x xs hd
    cases h
    have hlen : k < p.toList.length := by
      by_contra hk
      rw [List.drop_eq_nil_of_le (by omega)] at hd
      cases hd
    refine ⟨?_, ?_, ?_⟩
    · show p.toList.take k ++ x :: xs = p.toList
      rw [← hd, List.take_append_drop]
    · show (p.toList.take k).length = k
      rw [List.length_take]
      omega
    · show p.toList[k]? = some x
      have := List.getElem?_drop (xs := p.toList) (i := k) (j := 0)
      rw [hd] at this
      simpa using this.symm

/-- A selection fails exactly when there is no such instance. -/
theorem Pool.select_eq_none {p : Pool α} {k : Nat} : p.select k = none ↔ p.get? k = none := by
  unfold Pool.select Pool.get?
  rw [List.getElem?_eq_none_iff, ← List.drop_eq_nil_iff]
  split
  · rename_i h
    simp [h]
  · rename_i h
    simp [h]

/-- An instance that exists can be selected. -/
theorem Pool.select_of_get? {p : Pool α} {k : Nat} {x : α} (h : p.get? k = some x) :
    ∃ q, p.select k = some q ∧ q.cur = x ∧ q.toList = p.toList ∧ q.here = k := by
  cases hs : p.select k with
  | none => simp [Pool.select_eq_none.1 hs] at h
  | some q =>
    obtain ⟨h1, h2, h3⟩ := Pool.select_some hs
    exact ⟨q, rfl, by simpa [h] using h3.symm, h1, h2⟩

/-- Selecting the addressed instance changes nothing. -/
@[simp] theorem Pool.select_here (p : Pool α) : p.select p.here = some p := by
  obtain ⟨b, c, a⟩ := p
  simp [Pool.select, Pool.here, Pool.toList]

@[simp] theorem Pool.get?_here (p : Pool α) : p.get? p.here = some p.cur := by
  simp [Pool.get?, Pool.here, Pool.toList]

@[simp] theorem Pool.setCur_here (p : Pool α) (x : α) : Pool.here { p with cur := x } = p.here := rfl

/-- Writing the addressed instance changes that one only. -/
theorem Pool.get?_setCur (p : Pool α) (x : α) (k : Nat) :
    Pool.get? { p with cur := x } k = if k = p.here then some x else p.get? k := by
  unfold Pool.get? Pool.toList Pool.here
  split
  · subst_vars
    simp
  · rename_i hk
    rcases Nat.lt_or_gt_of_ne hk with hk | hk
    · rw [List.getElem?_append_left hk, List.getElem?_append_left hk]
    · rw [List.getElem?_append_right (Nat.le_of_lt hk), List.getElem?_append_right (Nat.le_of_lt hk)]
      obtain ⟨j, hj⟩ : ∃ j, k - p.before.length = j + 1 := ⟨k - p.before.length - 1, by omega⟩
      simp [hj]

/-- Two pools with the same instances give the same instance for each number. -/
theorem Pool.get?_congr {p q : Pool α} (h : p.toList = q.toList) (k : Nat) : p.get? k = q.get? k := by
  simp [Pool.get?, h]

/-- A new instance leaves the others where they are. -/
theorem Pool.get?_add (p : Pool α) (x : α) (k : Nat) (hk : k < p.toList.length) :
    (p.add x).get? k = p.get? k := by
  have : (p.add x).toList = p.toList ++ [x] := by simp [Pool.add, Pool.toList]
  simp [Pool.get?, this, List.getElem?_append_left hk]

theorem Pool.add_toList (p : Pool α) (x : α) : (p.add x).toList = p.toList ++ [x] := by
  simp [Pool.add, Pool.toList]

/-- The instances after the addressed one is written. -/
theorem Pool.mem_setCur {p : Pool α} {x y : α} (h : y ∈ Pool.toList { p with cur := x }) :
    y = x ∨ y ∈ p.toList := by
  simp only [Pool.toList, List.mem_append, List.mem_cons] at h ⊢
  tauto

theorem Pool.cur_mem (p : Pool α) : p.cur ∈ p.toList := by
  simp [Pool.toList]

end Sys2Proof.Machine
end

