-- ==== Sys2Proof/Laws/Step.lean ====
section
/-! SUPPORT. What a step can do, said once for each input, and runs over inputs. -/

namespace Sys2Proof.Machine

open Config

variable {s t : State} {rest : List Input}

theorem fetch_cons {e : Input} (h : s.inputs = e :: rest) : fetch s = fetchInput e { s with inputs := rest } := by
  simp [fetch, h]

/-- A byte delivered to a receiver that exists is RX.ON_BYTE there. -/
theorem step_rxByte {r : Nat} {v : Byte} {turn : ConsumerTurn} {q : Pool Receiver}
    (h : s.inputs = .rxByte r v turn :: rest) (hq : s.rxs.select r = some q) :
    step s = execRxOnByte v { s with inputs := rest, rxs := q, consumer := turn } := by
  simp [step, fetch_cons h, fetchInput, withReceiver, hq, exec]

/-- A call on a transmitter that exists is TX.SEND_FRAME there. -/
theorem step_sendFrame {k : Nat} {p : List Byte} {q : Pool Transmitter}
    (h : s.inputs = .sendFrame k p :: rest) (hq : s.txs.select k = some q) :
    step s = execTxSendFrame p { s with inputs := rest, txs := q } := by
  simp [step, fetch_cons h, fetchInput, withTransmitter, hq, exec]

/-- A write of a busy transmitter answered `ok` is `okEffect`. -/
theorem step_answerOk {k : Nat} {q : Pool Transmitter}
    (h : s.inputs = .answer k .ok :: rest) (hq : s.txs.select k = some q) (hb : q.cur.busy = true) :
    step s = .next
      { s with
        inputs := rest
        txs := { q with cur := (okEffect k q.cur).1 }
        outputs := s.outputs ++ (okEffect k q.cur).2 } := by
  have hk : q.here = k := (Pool.select_some hq).2.1
  simp only [step, fetch_cons h, fetchInput, withTransmitter, hq, fetchAnswer, fetchAnsweredOk, State.tx, hb, if_true,
    okEffect]
  cases q.cur.answered.advance with
  | put b tx =>
    simp only []
    rw [exec_decodeTxb]
    simp [State.setTx, State.tx, ← hk]
  | write x tx => simp [State.setTx, State.offer, State.output, ← hk]
  | succeed => simp [State.endSend, State.setTx, State.output, ← hk]

/-- A write of a busy transmitter answered `io_error` ends the send. -/
theorem step_answerError {k : Nat} {q : Pool Transmitter}
    (h : s.inputs = .answer k .ioError :: rest) (hq : s.txs.select k = some q) (hb : q.cur.busy = true) :
    step s = .next
      { s with
        inputs := rest, txs := { q with cur := Transmitter.idle }
        outputs := s.outputs ++ [.result k .transportFailure] } := by
  have hk : q.here = k := (Pool.select_some hq).2.1
  simp only [step, fetch_cons h, fetchInput, withTransmitter, hq, fetchAnswer, State.tx, hb, if_true,
    State.abortSend, State.endSend, State.setTx, State.output, hk]

/-- Everything a step can do when it answers a next state: with no input, nothing; else what its input comes to. -/
theorem step_next_cases (h : step s = .next t) :
    (s.inputs = [] ∧ t = s) ∨
    ∃ e rest, s.inputs = e :: rest ∧
      match e with
      | .rxByte r v turn => ∃ q, s.rxs.select r = some q ∧
          execRxOnByte v { s with inputs := rest, rxs := q, consumer := turn } = .next t
      | .rxOverlap _ _ => False
      | .consumerByte _ _ => False
      | .consumerReturns r => ∃ q, s.rxs.select r = some q ∧ q.cur.emitting = true ∧
          t = { s with
                inputs := rest
                rxs := { q with cur := { q.cur.restart with emitting := false } } }
      | .sendFrame k p => ∃ q, s.txs.select k = some q ∧
          execTxSendFrame p { s with inputs := rest, txs := q } = .next t
      | .answer k .ok => ∃ q, s.txs.select k = some q ∧ q.cur.busy = true ∧
          t = { s with
                inputs := rest
                txs := { q with cur := (okEffect k q.cur).1 }
                outputs := s.outputs ++ (okEffect k q.cur).2 }
      | .answer k .ioError => ∃ q, s.txs.select k = some q ∧ q.cur.busy = true ∧
          t = { s with
                inputs := rest, txs := { q with cur := Transmitter.idle }
                outputs := s.outputs ++ [.result k .transportFailure] }
      | .foreignWrite k _ => ∃ q, s.txs.select k = some q ∧ q.cur.busy = false ∧
          t = { s with inputs := rest, txs := q }
      | .crcUpdate c b => t = { s with inputs := rest, outputs := s.outputs ++ [.crc (update c b)] }
      | .newReceiver mru => 1 ≤ mru ∧
          t = { s with inputs := rest, rxs := s.rxs.add (Receiver.create mru) }
      | .newTransmitter => t = { s with inputs := rest, txs := s.txs.add Transmitter.idle } := by
  cases hi : s.inputs with
  | nil =>
    simp only [step, fetch, hi] at h
    cases h
    exact .inl ⟨rfl, rfl⟩
  | cons e rest =>
    refine .inr ⟨e, rest, rfl, ?_⟩
    cases e with
    | rxByte r v turn =>
      cases hq : s.rxs.select r with
      | none => simp [step, fetch_cons hi, fetchInput, withReceiver, hq] at h
      | some q =>
        rw [step_rxByte hi hq] at h
        exact ⟨q, hq, h⟩
    | rxOverlap r v =>
      cases hq : s.rxs.select r <;> simp [step, fetch_cons hi, fetchInput, withReceiver, hq] at h
    | consumerByte r v =>
      cases hq : s.rxs.select r with
      | none => simp [step, fetch_cons hi, fetchInput, withReceiver, hq] at h
      | some q =>
        simp only [step, fetch_cons hi, fetchInput, withReceiver, hq] at h
        split at h <;> cases h
    | consumerReturns r =>
      cases hq : s.rxs.select r with
      | none => simp [step, fetch_cons hi, fetchInput, withReceiver, hq] at h
      | some q =>
        simp only [step, fetch_cons hi, fetchInput, withReceiver, hq] at h
        split at h
        · rename_i he
          cases h
          exact ⟨q, hq, he, rfl⟩
        · cases h
    | sendFrame k p =>
      cases hq : s.txs.select k with
      | none => simp [step, fetch_cons hi, fetchInput, withTransmitter, hq] at h
      | some q =>
        rw [step_sendFrame hi hq] at h
        exact ⟨q, hq, h⟩
    | answer k a =>
      cases hq : s.txs.select k with
      | none => simp [step, fetch_cons hi, fetchInput, withTransmitter, hq] at h
      | some q =>
        have hb : q.cur.busy = true := by
          by_contra hb
          simp [step, fetch_cons hi, fetchInput, withTransmitter, hq, fetchAnswer, State.tx, hb] at h
        cases a with
        | ok =>
          rw [step_answerOk hi hq hb] at h
          cases h
          exact ⟨q, hq, hb, rfl⟩
        | ioError =>
          rw [step_answerError hi hq hb] at h
          cases h
          exact ⟨q, hq, hb, rfl⟩
    | foreignWrite k x =>
      cases hq : s.txs.select k with
      | none => simp [step, fetch_cons hi, fetchInput, withTransmitter, hq] at h
      | some q =>
        simp only [step, fetch_cons hi, fetchInput, withTransmitter, hq] at h
        split at h
        · cases h
        · rename_i hb
          cases h
          exact ⟨q, hq, by simpa [State.tx] using hb, rfl⟩
    | crcUpdate c b =>
      simp only [step, fetch_cons hi, fetchInput, exec, execCrcUpdate] at h
      cases h
      rfl
    | newReceiver mru =>
      simp only [step, fetch_cons hi, fetchInput] at h
      split at h
      · cases h
      · cases h
        exact ⟨by omega, rfl⟩
    | newTransmitter =>
      simp only [step, fetch_cons hi, fetchInput] at h
      cases h
      rfl

/-- A run over inputs: the first step, and the run over the rest. -/
theorem runOn_cons {e : Input} {es : List Input} (h : step { s with inputs := e :: es } = .next t)
    (ht : t.inputs = es) : s.runOn (e :: es) = t.runOn es := by
  have : ({ t with inputs := es } : State) = t := by cases t; simp_all
  have h' : Sys2Proof.core.step { s with inputs := e :: es } = .next t := h
  simp only [State.runOn, List.length_cons, Host.Core.run, this]
  rw [h']

@[simp] theorem runOn_nil : s.runOn [] = .next { s with inputs := [] } := rfl

/-- Bytes delivered to a receiver in no emission, to a consumer that returns at once: the run is `wireEffect`. -/
theorem runOn_deliver {r : Nat} {rx : Receiver} (wire : List Byte) (tail : List Input)
    (h : s.rxs.get? r = some rx) (he : rx.emitting = false) :
    ∃ t : State, s.runOn (deliver r wire ++ tail) = t.runOn tail ∧
      t.rxs.get? r = some (wireEffect r rx wire).1 ∧
      t.outputs = s.outputs ++ (wireEffect r rx wire).2 ∧ t.txs = s.txs := by
  induction wire generalizing s rx with
  | nil => exact ⟨s, rfl, h, by simp [wireEffect], rfl⟩
  | cons v wire ih =>
    obtain ⟨q, hq, hcur, -, hhere⟩ := Pool.select_of_get? h
    have hstep : step { s with inputs := .rxByte r v .returnsAtOnce :: (deliver r wire ++ tail) } =
        .next
          { s with
            inputs := deliver r wire ++ tail
            consumer := .returnsAtOnce
            rxs := { q with cur := (byteEffect r rx v).1 }
            outputs := s.outputs ++ (byteEffect r rx v).2 } := by
      rw [step_rxByte (s := { s with inputs := .rxByte r v .returnsAtOnce :: (deliver r wire ++ tail) })
          (rest := deliver r wire ++ tail) rfl hq,
        execRxOnByte_returns (by simpa [State.rx, hcur] using he) rfl]
      simp [State.rx, hcur, hhere]
    obtain ⟨t, h1, h2, h3, h4⟩ := ih
      (s := { s with
        inputs := deliver r wire ++ tail
        consumer := .returnsAtOnce
        rxs := { q with cur := (byteEffect r rx v).1 }
        outputs := s.outputs ++ (byteEffect r rx v).2 })
      (rx := (byteEffect r rx v).1) (by simp [Pool.get?_setCur, hhere]) (by simpa using he)
    refine ⟨t, ?_, h2, by simpa [wireEffect] using h3, h4⟩
    rw [← h1]
    exact runOn_cons hstep rfl

end Sys2Proof.Machine
end

