-- ==== Sys2Proof/Tests/Slice0.lean ====
section
/-! SUPPORT. The model's own tests: ill-formed terms refused, decoding of words written out from 30_encoding, one step
of each instruction against 95_test_vectors or a rule's example, and a witness for the hypotheses of each statement. -/

namespace Sys2Proof.Tests

open Sys2Proof.Machine Sys2Proof.Config

/-! ### WellFormed: terms that stand for no word (30_encoding R61, R62) -/

theorem test_illFormed_escData_flag : (Instr.rxEscData 0x7E).wellFormed = false := by decide
theorem test_illFormed_data_flag : (Instr.rxData 0x7E).wellFormed = false := by decide
theorem test_illFormed_data_esc : (Instr.rxData 0x7D).wellFormed = false := by decide
theorem test_illFormed_literal_flag : (Instr.txPutLiteral 0x7E).wellFormed = false := by decide
theorem test_illFormed_literal_esc : (Instr.txPutLiteral 0x7D).wellFormed = false := by decide

/-! ### Decoding: words written out from 30_encoding R60 to R62 -/

/-- RXW: bit 8 is esc = 0, then 7E. -/
theorem test_decode_rxFlag : decodeTableWord 9 0b0_0111_1110 = some .rxFlag := by decide
theorem test_decode_rxFlagAbort : decodeTableWord 9 0b1_0111_1110 = some .rxFlagAbort := by decide
theorem test_decode_rxEsc : decodeTableWord 9 0b0_0111_1101 = some .rxEsc := by decide
/-- 7D while an escape is pending is data (R61). -/
theorem test_decode_rxEscData : decodeTableWord 9 0b1_0111_1101 = some (.rxEscData 0x7D) := by decide
theorem test_decode_rxData : decodeTableWord 16 0b0_0101_1110 = some (.rxData 0x5E) := by decide
theorem test_decode_txPutEscapedEsc : decodeTableWord 8 0b0111_1101 = some .txPutEscapedEsc := by decide
theorem test_decode_txPutEscapedFlag : decodeTableWord 8 0b0111_1110 = some .txPutEscapedFlag := by decide
theorem test_decode_txPutLiteral : decodeTableWord 8 0b0101_1101 = some (.txPutLiteral 0x5D) := by decide
theorem test_decode_refused :
    decodeWord 9 512 = .error (.wordTooWide 9 512) ∧ decodeWord 32 0 = .error (.noSuchFormat 32) := by decide
/-- The operations have no bit encoding (R60). -/
theorem test_operations_no_bits :
    encode (.crcUpdate 0 0) = none ∧ encode (.rxOnByte 0) = none ∧ encode (.txSendFrame []) = none := by decide

/-! ### One step of each instruction -/

/-- A state with one receiver, one transmitter and these inputs to come. -/
def stateOf (rx : Receiver) (tx : Transmitter) (inputs : List Input) : State :=
  { State.reset with
    rxs := { State.reset.rxs with cur := rx }, txs := { State.reset.txs with cur := tx }, inputs := inputs }

/-- A receiver with MRU 64 and these registers. -/
def rxWith (length : Nat) (crc : Crc) (esc : Bool) : Receiver :=
  { Receiver.create 64 with length := length, crc := crc, esc := esc }

/-- The payload of V-TX-1 and V-RX-1: `01 .. 0E`. -/
def v1Payload : List Byte :=
  [0x01, 0x02, 0x03, 0x04, 0x05, 0x06, 0x07, 0x08, 0x09, 0x0A, 0x0B, 0x0C, 0x0D, 0x0E]

/-- The receiver after the 16 stored bytes of V-RX-1: `01 .. 0E 4C 2A`. -/
def goodRx : Receiver :=
  (v1Payload ++ [0x4C, 0x2A]).foldl Receiver.store (Receiver.create 64)

/-- A state in which a receiver instruction runs. -/
def rxState (rx : Receiver) : State :=
  stateOf rx .idle []

/-- A transmitter that has offered the opening FLAG of the frame of `p`. -/
def sending (p : List Byte) : Transmitter :=
  { busy := true, crc := 0xFFFF, pending := encodeFrame p, stage := .payload, left := p, second := none }

/-- Length, CRC and escape flag after an instruction. -/
def rxAfter (i : Instr) (rx : Receiver) : Option (Nat × Crc × Bool) :=
  match exec i (rxState rx) with
  | .next t => some (t.rx.length, t.rx.crc, t.rx.esc)
  | _ => none

/-- One cell of the buffer after an instruction. -/
def cellAfter (i : Instr) (rx : Receiver) (k : Nat) : Option Byte :=
  match exec i (rxState rx) with
  | .next t => Memory.read t.rx.buf k
  | _ => none

/-- What an instruction shows. -/
def shownBy (i : Instr) (s : State) : Option (List Output) :=
  match exec i s with
  | .next t => some t.outputs
  | _ => none

/-- V-RX-S1. -/
theorem test_rxFlag_short :
    rxAfter .rxFlag (rxWith 0 0xFFFF false) = some (0, 0xFFFF, false) ∧
      shownBy .rxFlag (rxState (rxWith 0 0xFFFF false)) = some [] := by decide
/-- V-RX-1, the example of 41_frame_receiver R101. -/
theorem test_rxFlag_emits :
    shownBy .rxFlag (rxState goodRx) = some [.emission 0 v1Payload] ∧
      rxAfter .rxFlag goodRx = some (0, 0xFFFF, false) := by decide
/-- V-RX-S4. -/
theorem test_rxFlagAbort : rxAfter .rxFlagAbort (rxWith 0 0xFFFF true) = some (0, 0xFFFF, false) := by decide
/-- 41_frame_receiver R102, first corner case: no emission of a run that would pass. -/
theorem test_rxFlagAbort_silent : shownBy .rxFlagAbort (rxState { goodRx with esc := true }) = some [] := by decide
/-- V-RX-S2. -/
theorem test_rxEsc : rxAfter .rxEsc (rxWith 0 0xFFFF false) = some (0, 0xFFFF, true) := by decide
/-- V-RX-S3. -/
theorem test_rxEscData :
    rxAfter (.rxEscData 0x5E) (rxWith 0 0xFFFF true) = some (1, 0x957E, false) ∧
      cellAfter (.rxEscData 0x5E) (rxWith 0 0xFFFF true) 0 = some 0x7E := by decide
/-- V-RX-S7: the wrap comes with the escaped byte. -/
theorem test_rxEscData_wrap :
    rxAfter (.rxEscData 0x5E) (rxWith 63 0xA6C9 true) = some (0, 0x3E6D, false) ∧
      cellAfter (.rxEscData 0x5E) (rxWith 63 0xA6C9 true) 63 = some 0x7E := by decide
/-- V-RX-S5. -/
theorem test_rxData :
    rxAfter (.rxData 0x01) (rxWith 0 0xFFFF false) = some (1, 0x1E0E, false) ∧
      cellAfter (.rxData 0x01) (rxWith 0 0xFFFF false) 0 = some 0x01 := by decide
/-- V-RX-S6. -/
theorem test_rxData_wrap :
    rxAfter (.rxData 0x00) (rxWith 63 0xA6C9 false) = some (0, 0xA494, false) ∧
      cellAfter (.rxData 0x00) (rxWith 63 0xA6C9 false) 63 = some 0x00 := by decide
/-- 41_frame_receiver R106: `7D 7D` stores 5D. -/
theorem test_rxOnByte_secondEsc : cellAfter (.rxOnByte 0x7D) (rxWith 0 0xFFFF true) 0 = some 0x5D := by decide
/-- 60_exceptions R154: CONCURRENT_RX. -/
theorem test_rxOnByte_overlap :
    exec (.rxOnByte 0x00) (rxState { goodRx with emitting := true }) = .fault .concurrentRx := rfl
/-- V-CRC-3, the example of 40_crc_engine R80. -/
theorem test_crcUpdate : shownBy (.crcUpdate 0xFFFF 0x01) State.reset = some [.crc 0x1E0E] := by decide
/-- V-CRC-11. -/
theorem test_crcUpdate_any : shownBy (.crcUpdate 0x1234 0x56) State.reset = some [.crc 0x4006] := by decide
/-- V-TX-2: the empty payload is `7E 00 00 7E`. -/
theorem test_txSendFrame :
    exec (.txSendFrame []) State.reset = .next
      { State.reset with
        txs := { State.reset.txs with cur := { sending [] with pending := [0x7E, 0x00, 0x00, 0x7E] } }
        outputs := [.write 0 0x7E] } := rfl
/-- V-TX-13. -/
theorem test_txSendFrame_busy :
    exec (.txSendFrame [0x01]) (stateOf goodRx (sending [0x01]) []) = .fault .concurrentSend := rfl
/-- 42_frame_transmitter R135: 7D goes out as `7D 5D`. -/
theorem test_txPutEscapedEsc :
    exec .txPutEscapedEsc State.reset = .next
      { State.reset with
        txs := { State.reset.txs with cur := { Transmitter.idle with second := some 0x5D } }
        outputs := [.write 0 0x7D] } := rfl
/-- 42_frame_transmitter R135: 7E goes out as `7D 5E`. -/
theorem test_txPutEscapedFlag :
    exec .txPutEscapedFlag State.reset = .next
      { State.reset with
        txs := { State.reset.txs with cur := { Transmitter.idle with second := some 0x5E } }
        outputs := [.write 0 0x7D] } := rfl
/-- 42_frame_transmitter R135: 5E goes out as 5E. -/
theorem test_txPutLiteral : shownBy (.txPutLiteral 0x5E) State.reset = some [.write 0 0x5E] := by decide
/-- V-TX-4: the FCS 7DE1 is written `E1 7D 5D`. -/
theorem test_encodeFrame_fcs_stuffed :
    encodeFrame [0x01, 0x02, 0x03, 0x04, 0x05, 0x06, 0x07, 0x08, 0x09, 0x0A, 0x0B, 0x0C, 0x0D, 0x0B] =
      [0x7E, 0x01, 0x02, 0x03, 0x04, 0x05, 0x06, 0x07, 0x08, 0x09, 0x0A, 0x0B, 0x0C, 0x0D, 0x0B, 0xE1, 0x7D, 0x5D,
        0x7E] := by decide

/-! ### Witnesses: for each statement with hypotheses, a state and operands that meet them together -/

/-- A well-formed receiver of MRU 16 that is one byte below its wrap: nothing it receives can be emitted. -/
def smallRx : Receiver :=
  (List.replicate 15 0x00).foldl Receiver.store (Receiver.create 16)

/-- Whether an outcome is a next state with a property. -/
def nextWith (o : Host.Outcome State Fault Refusal) (p : State → Bool) : Bool :=
  match o with
  | .next t => p t
  | _ => false

theorem exists_of_nextWith {o : Host.Outcome State Fault Refusal} {p : State → Bool} (h : nextWith o p = true) :
    ∃ t, o = .next t ∧ p t = true := by
  cases o with
  | next t => exact ⟨t, rfl, h⟩
  | fault f => cases h
  | refused r => cases h

theorem exists_next {o : Host.Outcome State Fault Refusal} (h : nextWith o (fun _ => true) = true) :
    ∃ t, o = .next t := by
  obtain ⟨t, ht, -⟩ := exists_of_nextWith h
  exact ⟨t, ht⟩

theorem goodRx_wf : goodRx.wf := by decide
theorem smallRx_wf : smallRx.wf := by decide
theorem sending_wf : (sending [0x7E, 0x01]).wf := by decide

/-- A busy transmitter whose escape marker awaits its answer, the masked byte to follow (V-TX-11 after its second
write was offered). -/
def escaping : Transmitter :=
  { busy := true, crc := update 0xFFFF 0x7E, pending := (encodeFrame [0x7E, 0x01]).drop 1
    stage := .payload, left := [0x01], second := some 0x5E }

theorem escaping_wf : escaping.wf := by decide

/-- A busy transmitter whose closing FLAG awaits its answer. -/
def closing : Transmitter :=
  { busy := true, crc := 0xFFFF, pending := [0x7E], stage := .closing, left := [], second := none }

theorem closing_wf : closing.wf := by decide

/-- Two transmitters, the first busy and the second idle. -/
def twoSenders (inputs : List Input) : State :=
  { stateOf goodRx (sending [0x01]) inputs with
    txs := { before := [], cur := sending [0x01], after := [.idle] } }

theorem witness_DecodeEncodeAgree :
    (Instr.rxEscData 0xFF).wellFormed = true ∧ encode (.rxEscData 0xFF) = some (9, 0x1FF) ∧
      (Instr.txPutLiteral 0x7F).wellFormed = true ∧ encode (.txPutLiteral 0x7F) = some (8, 0x7F) := by decide

/-- Each clause of the table, at the values next to FLAG and ESC. -/
theorem witness_ReceiverDecodeTable :
    decodeRxw (rxWord false 0x7E) = .rxFlag ∧ decodeRxw (rxWord true 0x7E) = .rxFlagAbort ∧
      decodeRxw (rxWord false 0x7D) = .rxEsc ∧ decodeRxw (rxWord true 0x7D) = .rxEscData 0x7D ∧
      decodeRxw (rxWord true 0x7F) = .rxEscData 0x7F ∧ decodeRxw (rxWord false 0x7C) = .rxData 0x7C ∧
      decodeRxw (rxWord false 0x7F) = .rxData 0x7F := by decide

theorem witness_StuffingRule :
    stuff 0x7D = [0x7D, 0x5D] ∧ stuff 0x7E = [0x7D, 0x5E] ∧ stuff 0x7C = [0x7C] ∧ stuff 0x7F = [0x7F] := by decide

theorem witness_OnByteRunsItsClass :
    (rxState goodRx).rx.emitting = false ∧ (rxState goodRx).rx.esc = false ∧
      (rxState { goodRx with esc := true }).rx.emitting = false ∧
      (rxState { goodRx with esc := true }).rx.esc = true := by decide

/-- The emission at the smallest length, and each half of the test failing alone. -/
theorem witness_FlagEmitsOrDrops :
    (rxState goodRx).consumer = .returnsAtOnce ∧ (16 ≤ (rxState goodRx).rx.length ∧ (rxState goodRx).rx.crc = 0xF0B8) ∧
      ¬(16 ≤ (rxWith 15 0xF0B8 false).length ∧ (rxWith 15 0xF0B8 false).crc = 0xF0B8) ∧
      ¬(16 ≤ (rxWith 16 0xF0B9 false).length ∧ (rxWith 16 0xF0B9 false).crc = 0xF0B8) := by decide

theorem witness_EmissionHeldUntilConsumerReturns :
    (let s := { rxState goodRx with consumer := .staysInCall }
     s.consumer = .staysInCall ∧ 16 ≤ s.rx.length ∧ s.rx.crc = 0xF0B8) ∧
    (let s := { rxState (rxWith 15 0xF0B8 false) with consumer := .staysInCall }
     s.consumer = .staysInCall ∧ ¬(16 ≤ s.rx.length ∧ s.rx.crc = 0xF0B8)) ∧
    let s := stateOf { goodRx with emitting := true } .idle [.consumerReturns 0]
    s.inputs = .consumerReturns 0 :: [] ∧ s.rxs.select 0 = some s.rxs ∧ s.rxs.cur.emitting = true := by decide

/-- Both clauses, at the wrap and one below it. -/
theorem witness_DataByteStored :
    (rxWith 63 0xA6C9 false).length + 1 = (rxWith 63 0xA6C9 false).mru ∧
      (rxWith 62 0xA6C9 false).length + 1 ≠ (rxWith 62 0xA6C9 false).mru := by decide

theorem witness_EscapedByteStored :
    (rxWith 63 0xA6C9 true).length + 1 = (rxWith 63 0xA6C9 true).mru ∧
      (rxWith 62 0xA6C9 true).length + 1 ≠ (rxWith 62 0xA6C9 true).mru := by decide

theorem witness_StoreTouchesOneCell :
    (∃ t, exec .rxFlag (rxState goodRx) = .next t) ∧ (∃ t, exec .rxFlagAbort (rxState goodRx) = .next t) ∧
      ∃ t, exec .rxEsc (rxState goodRx) = .next t :=
  ⟨exists_next (by decide), exists_next (by decide), exists_next (by decide)⟩

theorem witness_ReceiverInstrFrame :
    (∃ t, exec .rxFlag (rxState goodRx) = .next t) ∧ (∃ t, exec .rxFlagAbort (rxState goodRx) = .next t) ∧
      (∃ t, exec .rxEsc (rxState goodRx) = .next t) ∧ (∃ t, exec (.rxEscData 0x5E) (rxState goodRx) = .next t) ∧
      (∃ t, exec (.rxData 0x00) (rxState smallRx) = .next t) ∧
      ∃ t, exec (.rxOnByte 0x7E) (rxState goodRx) = .next t :=
  ⟨exists_next (by decide), exists_next (by decide), exists_next (by decide), exists_next (by decide),
    exists_next (by decide), exists_next (by decide)⟩

/-- The first part with an escape pending and with none; the second with the ESC byte that sets the flag. -/
theorem witness_EscFlagRule :
    (∃ t, exec (.rxOnByte 0x7D) (rxState (rxWith 0 0xFFFF false)) = .next t ∧ (t.rx.esc == true) = true) ∧
    (∃ t, exec (.rxOnByte 0x7E) (rxState (rxWith 0 0xFFFF true)) = .next t ∧ (t.rx.esc == false) = true) ∧
    (∃ t, step (stateOf goodRx .idle [.rxByte 0 0x7D .returnsAtOnce]) = .next t ∧
      (t.rxs.get? 0).any (·.esc) = true) ∧
    (stateOf goodRx .idle [.rxByte 0 0x7D .returnsAtOnce]).rxs.get? 0 = some goodRx ∧ goodRx.esc = false :=
  ⟨exists_of_nextWith (by decide), exists_of_nextWith (by decide), exists_of_nextWith (by decide), rfl, by decide⟩

/-- Each drop cause alone at its boundary, and none. -/
theorem witness_DropCausesAtFlag :
    Receiver.dropCause { goodRx with esc := true } = some .abort ∧
      (rxWith 15 0xF0B8 false).dropCause = some .short ∧ (rxWith 16 0xF0B9 false).dropCause = some .crc ∧
      goodRx.dropCause = none ∧ goodRx.emitting = false ∧ (0x7D : Byte) ≠ 0x7E := by decide

/-- An emission of the smallest payload, and a receiver that can emit nothing. -/
theorem witness_EmittedLengthBounds :
    goodRx.wf ∧ (rxState goodRx).rx = goodRx ∧ smallRx.wf ∧ (rxState smallRx).rx = smallRx ∧ smallRx.mru ≤ 16 ∧
      (∃ t, exec (.rxOnByte 0x7E) (rxState goodRx) = .next t ∧
        decide (t.outputs = [.emission 0 v1Payload]) = true) ∧
      ∃ t, exec (.rxOnByte 0x7E) (rxState smallRx) = .next t :=
  ⟨goodRx_wf, rfl, smallRx_wf, rfl, by decide, exists_of_nextWith (by decide), exists_next (by decide)⟩

theorem witness_EmissionReadsWrittenCells :
    goodRx.wf ∧ (rxState goodRx).rx = goodRx ∧ (∃ t, exec .rxFlag (rxState goodRx) = .next t ∧
      decide (t.outputs = [.emission (rxState goodRx).rxs.here v1Payload]) = true) ∧ 0 < v1Payload.length :=
  ⟨goodRx_wf, rfl, exists_of_nextWith (by decide), by decide⟩

theorem witness_StuffedByteStoredOnce :
    ((rxState goodRx).rx.esc = false ∧ (rxState goodRx).rx.emitting = false) ∧
      (rxState { goodRx with esc := true }).rx.esc = true ∧
      (rxState { goodRx with esc := true }).rx.emitting = false ∧ (0x7D : Byte) ≠ 0x7E := by decide

theorem witness_FlagForgetsHistory :
    (rxState goodRx).rxs.get? 0 = some goodRx ∧ State.reset.rxs.get? 0 = some (Receiver.create 64) ∧
      goodRx.mru = (Receiver.create 64).mru ∧ goodRx.emitting = false ∧ (Receiver.create 64).emitting = false := by
  decide

/-- The shortest and the longest payload at MRU 64; the receiver in the middle of a run, and a fresh one. -/
theorem witness_RoundTrip :
    (rxState goodRx).rxs.get? 0 = some goodRx ∧ goodRx.emitting = false ∧
      14 ≤ (List.replicate 14 (0x00 : Byte)).length ∧ (List.replicate 61 (0x00 : Byte)).length + 3 ≤ goodRx.mru ∧
      State.reset.rxs.get? 0 = some (Receiver.create 64) ∧ (Receiver.create 64).length = 0 := by decide

theorem witness_FreshReceiverNeedsNoOpeningFlag :
    State.reset.rxs.get? 0 = some (Receiver.create 64) ∧ 14 ≤ (List.replicate 61 (0x00 : Byte)).length ∧
      (List.replicate 61 (0x00 : Byte)).length + 3 ≤ 64 := by decide

theorem witness_OverflowLeavesDelta :
    State.reset.rxs.get? 0 = some (Receiver.create 64) ∧ (Receiver.create 64).emitting = false ∧
      1 ≤ (Receiver.create 64).mru ∧ (Receiver.create 64).length = 0 ∧ (Receiver.create 64).crc = 0xFFFF ∧
      (Receiver.create 64).esc = false := by decide

/-- Runs of MRU bytes: one wrap with nothing after it, and one with 16 bytes after it. -/
theorem witness_OverlongFrameEmission :
    State.reset.rxs.get? 0 = some (Receiver.create 64) ∧ (Receiver.create 64).mru ≤ (List.replicate 64 (0x00 : Byte)).length ∧
      (List.replicate 64 (0x00 : Byte)).length % (Receiver.create 64).mru < 16 ∧
      (Receiver.create 64).mru ≤ (List.replicate 80 (0x00 : Byte)).length := by decide

/-- A genuine over-long run, at MRU 16: the 16 bytes of V-CRC-R3. -/
theorem witness_OverlongFrameEmission_genuine :
    (Receiver.create 16).mru ≤ (v1Payload ++ [0x4C, 0x2A]).length ∧
      fold 0xFFFF (v1Payload ++ [0x4C, 0x2A]) = 0xF0B8 := by decide

/-- The shortest payload that wraps at MRU 64, and the longest that wraps once. -/
theorem witness_OverlongSentFrameDropped :
    State.reset.rxs.get? 0 = some (Receiver.create 64) ∧ (Receiver.create 64).emitting = false ∧
      (Receiver.create 64).mru ≤ (List.replicate 62 (0x00 : Byte)).length + 2 ∧
      (List.replicate 125 (0x00 : Byte)).length + 2 < 2 * (Receiver.create 64).mru := by decide

set_option maxRecDepth 8000 in
theorem fold_zeros_first : fold 0xFFFF (List.replicate 31 0x00) = 0x1403 := by decide
set_option maxRecDepth 8000 in
theorem fold_zeros_second : fold 0x1403 (List.replicate 31 0x00) = 0xDB93 := by decide

/-- A genuine over-long run of 64 bytes at MRU 64: 62 zero bytes and their FCS `6C 24` (40_crc_engine R87). -/
theorem witness_GenuineOverlongDroppedAtDefaultMru :
    State.reset.rxs.get? 0 = some (Receiver.create 64) ∧ (Receiver.create 64).mru = 64 ∧
      (List.replicate 31 (0x00 : Byte) ++ List.replicate 31 0x00 ++ [0x6C, 0x24]).length = 64 ∧
      fold 0xFFFF (List.replicate 31 0x00 ++ List.replicate 31 0x00 ++ [0x6C, 0x24]) = 0xF0B8 := by
  refine ⟨rfl, rfl, by decide, ?_⟩
  rw [fold_append, fold_append, fold_zeros_first, fold_zeros_second]
  decide

theorem witness_SendFrameAccepted : State.reset.tx.busy = false := by decide

/-- Each clause: a literal on either side of the escaped values, and the second write of a pair answered both ways. -/
theorem witness_PutOffersStuffedByte :
    decodeTxb 0x7C = .txPutLiteral 0x7C ∧ decodeTxb 0x7F = .txPutLiteral 0x7F ∧
      (let s := stateOf goodRx escaping [.answer 0 .ok]
       s.txs.select 0 = some s.txs ∧ s.txs.cur.busy = true ∧ s.txs.cur.second = some 0x5E ∧
         s.inputs = .answer 0 .ok :: []) ∧
      let s := stateOf goodRx escaping [.answer 0 .ioError]
      s.txs.select 0 = some s.txs ∧ s.txs.cur.busy = true ∧ s.txs.cur.second = some 0x5E ∧
        s.inputs = .answer 0 .ioError :: [] := by decide

/-- Each clause: `io_error`; `ok` with more to offer; `ok` to the last write. -/
theorem witness_AnswerMovesSend :
    (let s := stateOf goodRx (sending [0x7E, 0x01]) [.answer 0 .ioError]
     s.txs.select 0 = some s.txs ∧ s.txs.cur.busy = true ∧ s.inputs = .answer 0 .ioError :: []) ∧
    (let s := stateOf goodRx (sending [0x7E, 0x01]) [.answer 0 .ok]
     s.txs.select 0 = some s.txs ∧ s.txs.cur.busy = true ∧ s.inputs = .answer 0 .ok :: [] ∧
       s.txs.cur.pending.tail = 0x7D :: (encodeFrame [0x7E, 0x01]).drop 2) ∧
    let s := stateOf goodRx closing [.answer 0 .ok]
    s.txs.select 0 = some s.txs ∧ s.txs.cur.busy = true ∧ s.inputs = .answer 0 .ok :: [] ∧
      s.txs.cur.pending.tail = [] := by decide

/-- A step on the transmitter's own `io_error`, and one of another transmitter's send, while it is busy. -/
theorem witness_AnswerMovesSend_other :
    (let s := stateOf goodRx (sending [0x01]) [.answer 0 .ioError]
     s.txs.select 0 = some s.txs ∧ s.txs.cur.busy = true ∧ s.inputs.head? ≠ some (.answer 0 .ok) ∧
       ∃ t, step s = .next t) ∧
    let s := twoSenders [.sendFrame 1 []]
    s.txs.select 0 = some s.txs ∧ s.txs.cur.busy = true ∧ s.inputs.head? ≠ some (.answer 0 .ok) ∧
      ∃ t, step s = .next t :=
  ⟨⟨rfl, rfl, by decide, exists_next (by decide)⟩, rfl, rfl, by decide, exists_next (by decide)⟩

/-- Each clause: a payload byte; the second byte of a pair; the FCS after the last payload byte. -/
theorem witness_SendCrcAccumulation :
    State.reset.tx.busy = false ∧
    (let s := stateOf goodRx (sending [0x7E, 0x01]) [.answer 0 .ok]
     s.inputs = .answer 0 .ok :: [] ∧ s.txs.select 0 = some s.txs ∧ s.txs.cur.busy = true ∧
       s.txs.cur.second = none ∧ s.txs.cur.stage = .payload ∧ s.txs.cur.left = 0x7E :: [0x01]) ∧
    (let s := stateOf goodRx escaping [.answer 0 .ok]
     s.txs.select 0 = some s.txs ∧ s.txs.cur.busy = true ∧ s.txs.cur.second ≠ none) ∧
    (let s := stateOf goodRx (sending []) [.answer 0 .ok]
     s.txs.select 0 = some s.txs ∧ s.txs.cur.busy = true ∧ s.txs.cur.stage = .payload ∧ s.txs.cur.left = []) ∧
    let s := stateOf goodRx { sending [] with stage := .fcs } [.answer 0 .ok]
    s.txs.select 0 = some s.txs ∧ s.txs.cur.busy = true ∧ s.txs.cur.stage = .fcs := by decide

/-- The empty payload and the first and last write of its frame. -/
theorem witness_SendWritesWholeFrame :
    State.reset.txs.get? 0 = some Transmitter.idle ∧ Transmitter.idle.busy = false ∧
      0 < (encodeFrame []).length ∧ 3 < (encodeFrame []).length := by decide

theorem witness_FailedWriteCutsFrame :
    State.reset.txs.get? 0 = some Transmitter.idle ∧ Transmitter.idle.busy = false ∧
      0 < (encodeFrame []).length ∧ 3 < (encodeFrame []).length := by decide

theorem witness_UnansweredSendWaits :
    let s := stateOf goodRx (sending [0x01]) [.rxByte 0 0x00 .returnsAtOnce]
    s.inputs = .rxByte 0 0x00 .returnsAtOnce :: [] ∧ (∃ t, step s = .next t) ∧
      (∀ a, Input.rxByte 0 0x00 .returnsAtOnce ≠ .answer 0 a) ∧ s.txs.get? 0 = some (sending [0x01]) ∧
      (sending [0x01]).busy = true :=
  ⟨rfl, exists_next (by decide), fun _ h => Input.noConfusion h, rfl, rfl⟩

theorem witness_TransmitterInstrFrame :
    (∃ t, exec (.txSendFrame [0x7E]) State.reset = .next t) ∧ (∃ t, exec (.txPutLiteral 0x00) State.reset = .next t) ∧
      (∃ t, exec .txPutEscapedEsc State.reset = .next t) ∧ (∃ t, exec .txPutEscapedFlag State.reset = .next t) ∧
      ∃ t, exec (.crcUpdate 0xFFFF 0x00) State.reset = .next t :=
  ⟨exists_next (by decide), exists_next (by decide), exists_next (by decide), exists_next (by decide),
    exists_next (by decide)⟩

/-- One state in which every clause's hypotheses but its input hold: busy, and in an emission. -/
theorem witness_UsageFaults :
    let s := fun e => stateOf { goodRx with emitting := true } (sending [0x01]) [e]
    (∀ e, (s e).tx.busy = true ∧ (s e).rx.emitting = true ∧ (s e).inputs = e :: [] ∧
      (s e).txs.get? 0 = some (sending [0x01]) ∧ (sending [0x01]).busy = true ∧
      (s e).rxs.get? 0 = some { goodRx with emitting := true }) ∧
      step (s (.sendFrame 0 [])) = .fault .concurrentSend :=
  ⟨fun _ => ⟨rfl, rfl, rfl, rfl, rfl, rfl⟩, rfl⟩

theorem witness_OnlyUsageFaults :
    exec (.txSendFrame []) (stateOf goodRx (sending [0x01]) []) = .fault .concurrentSend ∧
      exec (.rxOnByte 0x00) (rxState { goodRx with emitting := true }) = .fault .concurrentRx := ⟨rfl, rfl⟩

/-- An input that keeps the duties and one that breaks them. -/
theorem witness_DutiesKeptCompletes :
    (stateOf goodRx .idle [.rxByte 0 0x7E .staysInCall]).inputs = .rxByte 0 0x7E .staysInCall :: [] ∧
      dutyKept (stateOf goodRx .idle [.rxByte 0 0x7E .staysInCall]) (.rxByte 0 0x7E .staysInCall) = true ∧
      dutyKept (stateOf goodRx .idle [.rxByte 1 0x7E .staysInCall]) (.rxByte 1 0x7E .staysInCall) = false := by decide

/-- Each clause: a byte; a call; a CRC.UPDATE; an answer with a payload byte, the FCS and an FCS byte next. -/
theorem witness_StepRunsDecodedInstruction :
    (let s := stateOf goodRx .idle [.rxByte 0 0x7E .returnsAtOnce]
     s.inputs = .rxByte 0 0x7E .returnsAtOnce :: [] ∧ s.rxs.select 0 = some s.rxs) ∧
    (let s := stateOf goodRx .idle [.sendFrame 0 [0x7E]]
     s.inputs = .sendFrame 0 [0x7E] :: [] ∧ s.txs.select 0 = some s.txs) ∧
    (stateOf goodRx .idle [.crcUpdate 0xFFFF 0x01]).inputs = .crcUpdate 0xFFFF 0x01 :: [] ∧
    (let s := stateOf goodRx (sending [0x7E]) [.answer 0 .ok]
     s.inputs = .answer 0 .ok :: [] ∧ s.txs.select 0 = some s.txs ∧ s.txs.cur.busy = true ∧
       s.txs.cur.second = none ∧ s.txs.cur.stage = .payload ∧ s.txs.cur.left = 0x7E :: []) ∧
    (let s := stateOf goodRx (sending []) [.answer 0 .ok]
     s.txs.select 0 = some s.txs ∧ s.txs.cur.busy = true ∧ s.txs.cur.second = none ∧
       s.txs.cur.stage = .payload ∧ s.txs.cur.left = []) ∧
    let s := stateOf goodRx { sending [] with stage := .fcs, left := [0x7E] } [.answer 0 .ok]
    s.txs.select 0 = some s.txs ∧ s.txs.cur.busy = true ∧ s.txs.cur.second = none ∧
      s.txs.cur.stage = .fcs ∧ s.txs.cur.left = 0x7E :: [] := by decide

theorem witness_IdleWithoutInput : State.reset.inputs = [] := by decide

/-- The smallest legal MRU, and the value below it. -/
theorem witness_NewReceiverCreated :
    (stateOf goodRx .idle [.newReceiver 1]).inputs = .newReceiver 1 :: [] ∧ 1 ≤ 1 ∧
      (stateOf goodRx .idle [.newReceiver 0]).inputs = .newReceiver 0 :: [] := by decide

theorem witness_StepKeepsInvariant :
    (stateOf goodRx (sending [0x7E, 0x01]) [.rxByte 0 0x7E .staysInCall]).inv ∧
      ∃ t, step (stateOf goodRx (sending [0x7E, 0x01]) [.rxByte 0 0x7E .staysInCall]) = .next t ∧
        t.rx.emitting = true := ⟨by decide, exists_of_nextWith (p := fun t => t.rx.emitting) (by decide)⟩

theorem witness_MruNeverChanges :
    (∃ t, step (stateOf goodRx .idle [.rxByte 0 0x7E .returnsAtOnce]) = .next t) ∧
      (stateOf goodRx .idle [.rxByte 0 0x7E .returnsAtOnce]).rxs.get? 0 = some goodRx :=
  ⟨exists_next (by decide), rfl⟩

theorem witness_OnlyOwnCallsChangeReceiver :
    let s := stateOf goodRx .idle [.sendFrame 0 []]
    s.inputs = .sendFrame 0 [] :: [] ∧ (∃ t, step s = .next t) ∧ (Input.sendFrame 0 []).receiver? ≠ some 0 ∧
      s.rxs.get? 0 = some goodRx :=
  ⟨rfl, exists_next (by decide), by decide, rfl⟩

/-- Each case: another transmitter's send beside a busy one, and a foreign write at an idle one. -/
theorem witness_OnlyOwnCallsChangeTransmitter :
    (let s := twoSenders [.sendFrame 1 []]
     s.inputs = .sendFrame 1 [] :: [] ∧ (∃ t, step s = .next t) ∧ s.txs.get? 0 = some (sending [0x01]) ∧
       (Input.sendFrame 1 []).transmitter? ≠ some 0) ∧
    let s := stateOf goodRx .idle [.foreignWrite 0 0x00]
    s.inputs = .foreignWrite 0 0x00 :: [] ∧ (∃ t, step s = .next t) ∧ s.txs.get? 0 = some .idle ∧
      Transmitter.idle.busy = false ∧ ∀ p, Input.foreignWrite 0 0x00 ≠ .sendFrame 0 p :=
  ⟨⟨rfl, exists_next (by decide), rfl, by decide⟩, rfl, exists_next (by decide), rfl, rfl,
    fun _ h => Input.noConfusion h⟩

theorem witness_OutputsOnlyGrow :
    ∃ t, step (stateOf goodRx .idle [.rxByte 0 0x7E .returnsAtOnce]) = .next t ∧ !t.outputs.isEmpty = true :=
  exists_of_nextWith (by decide)

/-- A delimiter that emits, and a send at the same time. -/
theorem witness_InstancesCommute :
    dutyKept (rxState goodRx) (.rxByte 0 0x7E .returnsAtOnce) = true ∧
      dutyKept (rxState goodRx) (.sendFrame 0 [0x01]) = true ∧
      (Input.rxByte 0 0x7E .returnsAtOnce).receiver? = some 0 ∧ (Input.sendFrame 0 [0x01]).receiver? ≠ some 0 ∧
      (Input.rxByte 0 0x7E .returnsAtOnce).transmitter? = none ∧
      ∀ m, Input.rxByte 0 0x7E .returnsAtOnce ≠ .newReceiver m := by
  refine ⟨by decide, by decide, by decide, by decide, by decide, fun m h => Input.noConfusion h⟩

end Sys2Proof.Tests
end

section
/-! The escape flag (10_state R23): what one wire byte does to it, and that no other input of the machine raises it. -/

namespace Sys2Proof.Machine

open Config

/-- With no escape pending the two reserved values have a class each, every other byte is data (30_encoding R61). -/
theorem rxClass_clear (v : Byte) :
    rxClass false v = if v = FLAG then .flag else if v = ESC then .esc else .data v := by
  simp [rxClass]

/-- With an escape pending a FLAG aborts and every other byte is escaped data (30_encoding R61). -/
theorem rxClass_pending (v : Byte) : rxClass true v = if v = FLAG then .flagAbort else .escData v := by
  simp [rxClass]

/-- Class RX.ESC is exactly an ESC byte with no escape pending (30_encoding R61). -/
theorem rxClass_eq_esc {esc : Bool} {v : Byte} : rxClass esc v = .esc ↔ esc = false ∧ v = ESC := by
  cases esc with
  | false =>
    rw [rxClass_clear]
    split
    · subst v
      decide
    · split
      · exact iff_of_true rfl ⟨rfl, ‹_›⟩
      · exact iff_of_false nofun fun hesc => absurd hesc.2 ‹_›
  | true =>
    rw [rxClass_pending]
    split <;> simp

/-- Class RX.DATA needs no escape pending (30_encoding R61). -/
theorem esc_eq_false_of_rxClass_eq_data {esc : Bool} {v w : Byte} (h : rxClass esc v = .data w) : esc = false := by
  cases esc with
  | false => rfl
  | true =>
    rw [rxClass_pending] at h
    split at h <;> cases h

/-- The flag after one wire byte: 1 exactly when the byte is an ESC and no escape was pending. -/
theorem byteEffect_esc (k : Nat) (rx : Receiver) (v : Byte) :
    (byteEffect k rx v).1.esc = true ↔ rx.esc = false ∧ v = ESC := by
  rw [← rxClass_eq_esc]
  unfold byteEffect
  cases hclass : rxClass rx.esc v with
  | flag | flagAbort | esc | escData => simp
  | data w => simp [esc_eq_false_of_rxClass_eq_data hclass]

/-- `byteEffect_esc` for RX.ON_BYTE with any consumer: a FLAG whose emission is still in progress leaves the flag 0. -/
theorem execRxOnByte_esc {s t : State} {v : Byte} (h : execRxOnByte v s = .next t) :
    t.rx.esc = true ↔ s.rx.esc = false ∧ v = ESC := by
  obtain ⟨-, rfl | ⟨-, -, hesc, rfl, rfl⟩⟩ := execRxOnByte_next h
  · exact byteEffect_esc _ _ _
  · simp [hesc]

/-- RX.ON_BYTE with an escape pending is the abort at a FLAG and the escaped-data store at any other byte. -/
theorem execRxOnByte_pending {s : State} (v : Byte) (he : s.rx.emitting = false) (hesc : s.rx.esc = true) :
    execRxOnByte v s = exec (if v = FLAG then .rxFlagAbort else .rxEscData v) s := by
  unfold execRxOnByte
  rw [if_neg (by simp [he]), hesc, rxClass_pending]
  by_cases hflag : v = FLAG
  · rw [if_pos hflag, if_pos hflag]
    rfl
  · rw [if_neg hflag, if_neg hflag]
    rfl

/-- RX.ON_BYTE writes the addressed receiver only. -/
theorem execRxOnByte_get? {s t : State} {v : Byte} (h : execRxOnByte v s = .next t) (k : Nat) :
    t.rxs.get? k = if k = s.rxs.here then some t.rx else s.rxs.get? k := by
  obtain ⟨-, rfl | ⟨-, -, -, -, rfl⟩⟩ := execRxOnByte_next h <;> exact Pool.get?_setCur _ _ _

/-- TX.SEND_FRAME touches no receiver. -/
theorem execTxSendFrame_rxs {s t : State} {p : List Byte} (h : execTxSendFrame p s = .next t) : t.rxs = s.rxs := by
  unfold execTxSendFrame at h
  split at h <;> cases h
  rfl

/-- A step that takes a byte delivered to receiver `k`: that receiver runs RX.ON_BYTE, every other one stays. -/
theorem step_rxByte_get? {s t : State} {k r : Nat} {v : Byte} {turn : ConsumerTurn} {rest : List Input}
    {q : Pool Receiver} (hq : s.rxs.select k = some q)
    (h : execRxOnByte v { s with inputs := rest, rxs := q, consumer := turn } = .next t) :
    t.rxs.get? r = if r = k then some t.rx else s.rxs.get? r := by
  obtain ⟨hlist, hhere, -⟩ := Pool.select_some hq
  rw [execRxOnByte_get? h r, hhere, Pool.get?_congr hlist]

/-- A step raises the flag of an existing receiver `r` only by an ESC byte delivered to `r`. -/
theorem step_raises_esc {s t : State} {r : Nat} {rx rx' : Receiver} (h : step s = .next t)
    (hs : s.rxs.get? r = some rx) (ht : t.rxs.get? r = some rx') (hlow : rx.esc = false) (hhigh : rx'.esc = true) :
    ∃ turn rest, s.inputs = .rxByte r ESC turn :: rest := by
  have unchanged (hr : t.rxs.get? r = s.rxs.get? r) : False := by
    rw [hr, hs] at ht
    cases ht
    exact absurd hhigh (by simp [hlow])
  obtain ⟨-, rfl⟩ | ⟨e, rest, hin, hstep⟩ := step_next_cases h
  · exact (unchanged rfl).elim
  cases e with
  | rxByte k v turn =>
    obtain ⟨q, hq, hexec⟩ := hstep
    have hget := step_rxByte_get? (r := r) hq hexec
    by_cases hk : r = k
    · subst hk
      obtain rfl : t.rx = rx' := by simpa [ht] using hget.symm
      obtain ⟨-, rfl⟩ := (execRxOnByte_esc hexec).1 hhigh
      exact ⟨turn, rest, hin⟩
    · exact (unchanged (by simpa [hk] using hget)).elim
  | rxOverlap | consumerByte => exact hstep.elim
  | consumerReturns k =>
    obtain ⟨q, hq, -, rfl⟩ := hstep
    obtain ⟨hlist, -⟩ := Pool.select_some hq
    have hget := Pool.get?_setCur q { q.cur.restart with emitting := false } r
    split at hget
    · obtain rfl := Option.some.inj (ht.symm.trans hget)
      cases hhigh
    · exact (unchanged (hget.trans (Pool.get?_congr hlist r))).elim
  | sendFrame k p =>
    obtain ⟨q, -, hexec⟩ := hstep
    exact (unchanged (by rw [execTxSendFrame_rxs hexec])).elim
  | answer k a =>
    cases a <;> obtain ⟨q, -, -, rfl⟩ := hstep <;> exact (unchanged rfl).elim
  | foreignWrite k x =>
    obtain ⟨q, -, -, rfl⟩ := hstep
    exact (unchanged rfl).elim
  | crcUpdate | newTransmitter =>
    subst hstep
    exact (unchanged rfl).elim
  | newReceiver mru =>
    obtain ⟨-, rfl⟩ := hstep
    obtain ⟨hlt, -⟩ := List.getElem?_eq_some_iff.1 hs
    exact (unchanged (Pool.get?_add _ _ _ hlt)).elim

/-- Settles O24: `execRxOnByte_esc` says when the flag is 1 after a byte, `execRxOnByte_pending` which class clears it,
`step_raises_esc` that no other step sets it. -/
theorem escFlagRule : Obligations.EscFlagRule := by
  refine ⟨fun s t v h => ⟨execRxOnByte_esc h, fun hesc => ?_⟩,
    fun _ _ _ _ _ => step_raises_esc⟩
  obtain ⟨hfree, -⟩ := execRxOnByte_next h
  rw [← execRxOnByte_pending v hfree hesc]
  exact h

end Sys2Proof.Machine
end

section
/-! The receiver's word and its decode table (30_encoding R60, R61). -/

namespace Sys2Proof.Machine

open Config

/-- Bit 8 of an assembled RXW word is the escape flag it was built from (30_encoding R60). -/
@[simp] theorem rxWordEsc_rxWord (esc : Bool) (v : Byte) : rxWordEsc (rxWord esc v) = esc := by
  rw [rxWordEsc, rxWord, BitVec.getLsbD_append, if_neg (by decide)]
  simp

/-- Bits 7:0 of an assembled RXW word are the byte it was built from (30_encoding R60). -/
@[simp] theorem rxWordByte_rxWord (esc : Bool) (v : Byte) : rxWordByte (rxWord esc v) = v :=
  BitVec.setWidth_append_eq_right

/-- Decoding an assembled RXW word is classifying its two fields. -/
theorem decodeRxw_rxWord (esc : Bool) (v : Byte) : decodeRxw (rxWord esc v) = (rxClass esc v).instr := by
  rw [decodeRxw, rxWordEsc_rxWord, rxWordByte_rxWord]

/-- Settles O3: `decodeRxw_rxWord` leaves the classification, `rxClass_clear` and `rxClass_pending` give its rows. -/
theorem receiverDecodeTable : Obligations.ReceiverDecodeTable := by
  intro esc v
  rw [decodeRxw_rxWord]
  cases esc with
  | false =>
    rw [rxClass_clear]
    refine ⟨fun _ hflag => ?_, nofun, fun _ hesc => ?_, nofun, fun _ hflag hesc => ?_⟩
    · rw [if_pos hflag, RxClass.instr]
    · subst hesc
      rfl
    · rw [if_neg hflag, if_neg hesc, RxClass.instr]
  | true =>
    rw [rxClass_pending]
    refine ⟨nofun, fun _ hflag => ?_, nofun, fun _ hflag => ?_, nofun⟩
    · rw [if_pos hflag, RxClass.instr]
    · rw [if_neg hflag, RxClass.instr]

end Sys2Proof.Machine
end

section
/-! The stuffing rule (30_encoding R62). -/

namespace Sys2Proof.Machine

open Config

/-- The two reserved values go out as ESC and the masked byte (30_encoding R62). -/
theorem stuff_escaped {b : Byte} (h : b = ESC ∨ b = FLAG) : stuff b = [ESC, masked b] := by
  rcases h with rfl | rfl
  · exact stuff_esc
  · exact stuff_flag

/-- Settles O6: `stuff_escaped` and `stuff_literal` are the two cases of a byte; a frame's wire form stuffs the payload
and the FCS bytes between two bare delimiters. -/
theorem stuffingRule : Obligations.StuffingRule := by
  refine ⟨fun b => ⟨stuff_escaped, stuff_literal⟩, stuff_flag, stuff_esc, fun p => ?_⟩
  rw [encodeFrame, stuffFcs, stuffAll, ← List.append_assoc]

end Sys2Proof.Machine
end

section
/-! The receiver's instructions, class by class (41_frame_receiver R100 to R106): the state each one leaves, and which
of them RX.ON_BYTE is. -/

namespace Sys2Proof.Machine

open Config

/-- RX.FLAG_ABORT only resets the addressed receiver. -/
theorem exec_rxFlagAbort (s : State) : exec .rxFlagAbort s = .next (s.setRx s.rx.restart) := rfl

/-- RX.ESC only sets the addressed receiver's flag. -/
theorem exec_rxEsc (s : State) : exec .rxEsc s = .next (s.setRx { s.rx with esc := true }) := rfl

/-- RX.DATA only stores the byte it was given. -/
theorem exec_rxData (v : Byte) (s : State) : exec (.rxData v) s = .next (s.setRx (s.rx.store v)) := rfl

/-- RX.ESCDATA only clears the flag and stores the unmasked byte. -/
theorem exec_rxEscData (v : Byte) (s : State) :
    exec (.rxEscData v) s = .next (s.setRx (Receiver.store { s.rx with esc := false } (masked v))) := rfl

/-- RX.FLAG on a run it does not accept only resets, with any consumer. -/
theorem exec_rxFlag_of_not_accepts {s : State} (ha : ¬ s.rx.accepts) :
    exec .rxFlag s = .next (s.setRx s.rx.restart) :=
  if_neg ha

/-- RX.FLAG on an accepted run, to a consumer that returns at once: the emission, then the reset. -/
theorem exec_rxFlag_of_returnsAtOnce {s : State} (ha : s.rx.accepts) (hc : s.consumer = .returnsAtOnce) :
    exec .rxFlag s = .next (s.emit.setRx s.rx.restart) := by
  show execRxFlag s = _
  rw [execRxFlag, if_pos ha, hc]

/-- RX.FLAG on an accepted run, to a consumer that stays in the call: the emission, held. -/
theorem exec_rxFlag_of_staysInCall {s : State} (ha : s.rx.accepts) (hc : s.consumer = .staysInCall) :
    exec .rxFlag s = .next (s.emit.setRx { s.rx with emitting := true }) := by
  show execRxFlag s = _
  rw [execRxFlag, if_pos ha, hc]

/-- The instruction of every receiver class completes, in every state. -/
theorem exec_rxClass_completes (c : RxClass) (s : State) : ∃ t, exec c.instr s = .next t := by
  cases c with
  | flag =>
    by_cases ha : s.rx.accepts
    · cases hc : s.consumer with
      | returnsAtOnce => exact ⟨_, exec_rxFlag_of_returnsAtOnce ha hc⟩
      | staysInCall => exact ⟨_, exec_rxFlag_of_staysInCall ha hc⟩
    · exact ⟨_, exec_rxFlag_of_not_accepts ha⟩
  | flagAbort => exact ⟨_, exec_rxFlagAbort s⟩
  | esc => exact ⟨_, exec_rxEsc s⟩
  | escData v => exact ⟨_, exec_rxEscData v s⟩
  | data v => exact ⟨_, exec_rxData v s⟩

/-- RX.ON_BYTE on a receiver in no emission is the instruction of the class of {rx.esc, v} (R100). -/
theorem exec_rxOnByte_of_rxClass {s : State} {v : Byte} (c : RxClass) (he : s.rx.emitting = false)
    (hc : rxClass s.rx.esc v = c) : exec (.rxOnByte v) s = exec c.instr s := by
  show execRxOnByte v s = _
  rw [execRxOnByte, if_neg (by simp [he]), hc]
  cases c <;> rfl

/-- A byte of any class but RX.FLAG shows nothing. -/
theorem byteEffect_silent {rx : Receiver} {v : Byte} (r : Nat) (h : rxClass rx.esc v ≠ .flag) :
    (byteEffect r rx v).2 = [] := by
  unfold byteEffect
  cases hclass : rxClass rx.esc v with
  | flag => exact absurd hclass h
  | flagAbort | esc | escData | data => rfl

/-- RX.ON_BYTE shows nothing but in class RX.FLAG, with any consumer. -/
theorem execRxOnByte_silent {s t : State} {v : Byte} (h : execRxOnByte v s = .next t)
    (hk : rxClass s.rx.esc v ≠ .flag) : t.outputs = s.outputs := by
  obtain ⟨-, rfl | ⟨-, -, hesc, hv, -⟩⟩ := execRxOnByte_next h
  · simp only [byteEffect_silent _ hk, List.append_nil]
  · exact absurd (rxClass_eq_flag.2 ⟨hesc, hv⟩) hk

/-- Settles O15: `exec_rxOnByte_of_rxClass` reduces RX.ON_BYTE to its class, `exec_rxClass_completes` gives the
completion, `execRxOnByte_shows` the at most one emission, and `execRxOnByte_silent` its class. -/
theorem onByteRunsItsClass : Obligations.OnByteRunsItsClass := by
  intro s v he
  refine ⟨?_, fun hesc hv => exec_rxOnByte_of_rxClass .flag he (rxClass_eq_flag.2 ⟨hesc, hv⟩),
    fun hesc hv => exec_rxOnByte_of_rxClass .flagAbort he ?_,
    fun hesc hv => exec_rxOnByte_of_rxClass .esc he (rxClass_eq_esc.2 ⟨hesc, hv⟩),
    fun hesc hv => exec_rxOnByte_of_rxClass (.escData v) he ?_,
    fun hesc hflag hv => exec_rxOnByte_of_rxClass (.data v) he ?_⟩
  · obtain ⟨t, ht⟩ := exec_rxClass_completes (rxClass s.rx.esc v) s
    have hnext : exec (.rxOnByte v) s = .next t := (exec_rxOnByte_of_rxClass _ he rfl).trans ht
    refine ⟨t, hnext, ?_⟩
    by_cases hk : rxClass s.rx.esc v = .flag
    · obtain ⟨hesc, hv⟩ := rxClass_eq_flag.1 hk
      obtain ⟨-, hsame | hemit⟩ := execRxOnByte_shows hnext
      · exact .inl hsame
      · exact .inr ⟨hesc, hv, hemit⟩
    · exact .inl (execRxOnByte_silent hnext hk)
  · rw [hesc, rxClass_pending, if_pos hv]
  · rw [hesc, rxClass_pending, if_neg hv]
  · rw [hesc, rxClass_clear, if_neg hflag, if_neg hv]

/-- Settles O16: the two branches of the emission test, which reads the registers from before the reset. -/
theorem flagEmitsOrDrops : Obligations.FlagEmitsOrDrops :=
  fun _ hc => ⟨fun ha => exec_rxFlag_of_returnsAtOnce ha hc, exec_rxFlag_of_not_accepts⟩

/-- Settles O18: no test guards the reset, so none of the registers can bring an emission about. -/
theorem flagAbortNeverEmits : Obligations.FlagAbortNeverEmits :=
  exec_rxFlagAbort

/-- Settles O19: the class stores nothing, so no overflow test is made either. -/
theorem escMarksOnly : Obligations.EscMarksOnly :=
  exec_rxEsc

/-- Settles O20: the class is STORE of the byte, `store_noWrap` and `store_wrap` are its two cases. -/
theorem dataByteStored : Obligations.DataByteStored := by
  refine fun s v => ⟨fun h => ?_, fun h => ?_⟩
  · rw [exec_rxData, store_noWrap v h, State.setRx]
  · rw [exec_rxData, store_wrap v h, State.setRx]

/-- Settles O21: the class is STORE of the unmasked byte on the receiver with its flag cleared; the flag plays no part
in the overflow test. -/
theorem escapedByteStored : Obligations.EscapedByteStored := by
  refine fun s v => ⟨fun h => ?_, fun h => ?_⟩
  · rw [exec_rxEscData, store_noWrap (rx := { s.rx with esc := false }) _ h, masked, State.setRx]
  · rw [exec_rxEscData, store_wrap (rx := { s.rx with esc := false }) _ h, masked, State.setRx]

end Sys2Proof.Machine
end

section
/-! The drop causes at a FLAG (60_exceptions R152, R155): when each holds, and what a FLAG and any other byte do. -/

namespace Sys2Proof.Machine

open Config

/-- The drop cause is read in the order ABORT, SHORT, CRC, and there is none on an accepted run with no escape
pending: exactly one of the four cases holds (60_exceptions R152, R155(b)). -/
theorem dropCause_cases (rx : Receiver) :
    rx.dropCause = some .abort ∧ rx.esc = true ∨
    rx.dropCause = some .short ∧ rx.esc = false ∧ rx.length < MINLEN ∨
    rx.dropCause = some .crc ∧ rx.esc = false ∧ MINLEN ≤ rx.length ∧ rx.crc ≠ GOOD ∨
    rx.dropCause = none ∧ rx.esc = false ∧ rx.accepts := by
  unfold Receiver.dropCause
  split
  · exact .inl ⟨rfl, ‹_›⟩
  next hesc =>
    replace hesc := Bool.eq_false_of_not_eq_true hesc
    split
    · exact .inr (.inl ⟨rfl, hesc, ‹_›⟩)
    next hlen =>
      replace hlen := Nat.le_of_not_lt hlen
      split
      · exact .inr (.inr (.inl ⟨rfl, hesc, hlen, ‹_›⟩))
      next hcrc => exact .inr (.inr (.inr ⟨rfl, hesc, hlen, not_not.1 hcrc⟩))

theorem dropCause_eq_abort {rx : Receiver} : rx.dropCause = some .abort ↔ rx.esc = true := by
  obtain ⟨hd, hesc⟩ | ⟨hd, hesc, -⟩ | ⟨hd, hesc, -⟩ | ⟨hd, hesc, -⟩ := dropCause_cases rx <;> simp [hd, hesc]

theorem dropCause_eq_short {rx : Receiver} :
    rx.dropCause = some .short ↔ rx.esc = false ∧ rx.length < MINLEN := by
  obtain ⟨hd, hesc⟩ | ⟨hd, hesc, hlen⟩ | ⟨hd, -, hlen, -⟩ | ⟨hd, -, hlen, -⟩ := dropCause_cases rx
  · simp [hd, hesc]
  · exact iff_of_true hd ⟨hesc, hlen⟩
  · simp [hd, hlen]
  · simp [hd, hlen]

theorem dropCause_eq_crc {rx : Receiver} :
    rx.dropCause = some .crc ↔ rx.esc = false ∧ MINLEN ≤ rx.length ∧ rx.crc ≠ GOOD := by
  obtain ⟨hd, hesc⟩ | ⟨hd, -, hlen⟩ | ⟨hd, hcond⟩ | ⟨hd, -, -, hcrc⟩ := dropCause_cases rx
  · simp [hd, hesc]
  · simp [hd, Nat.not_le_of_lt hlen]
  · exact iff_of_true hd hcond
  · simp [hd, hcrc]

/-- No drop cause is what makes a FLAG emit: no escape pending, and the emission test of R101. -/
theorem dropCause_eq_none {rx : Receiver} : rx.dropCause = none ↔ rx.esc = false ∧ rx.accepts := by
  obtain ⟨hd, hesc⟩ | ⟨hd, -, hlen⟩ | ⟨hd, -, -, hcrc⟩ | ⟨hd, hcond⟩ := dropCause_cases rx
  · simp [hd, hesc]
  · simp [hd, Nat.not_le_of_lt hlen]
  · exact iff_of_false (by simp [hd]) fun hcond => hcrc hcond.2.2
  · exact iff_of_true hd hcond

/-- A FLAG with a drop cause only resets the run, whatever the cause and the consumer. -/
theorem exec_rxOnByte_flag_of_drop {s : State} (he : s.rx.emitting = false) (hd : s.rx.dropCause ≠ none) :
    exec (.rxOnByte FLAG) s = .next (s.setRx s.rx.restart) := by
  rw [exec_rxOnByte_of_rxClass _ he rfl]
  cases hesc : s.rx.esc with
  | false => exact exec_rxFlag_of_not_accepts fun ha => hd (dropCause_eq_none.2 ⟨hesc, ha⟩)
  | true => exact exec_rxFlagAbort s

/-- A FLAG without a drop cause shows the payload, whatever the consumer does with it. -/
theorem exec_rxOnByte_flag_of_no_drop {s : State} (he : s.rx.emitting = false) (hd : s.rx.dropCause = none) :
    ∃ t, exec (.rxOnByte FLAG) s = .next t ∧
      t.outputs = s.outputs ++ [.emission s.rxs.here (Receiver.payload s.rxs.here s.rx)] := by
  obtain ⟨hesc, ha⟩ := dropCause_eq_none.1 hd
  rw [exec_rxOnByte_of_rxClass .flag he (rxClass_eq_flag.2 ⟨hesc, rfl⟩)]
  cases hc : s.consumer with
  | returnsAtOnce => exact ⟨_, exec_rxFlag_of_returnsAtOnce ha hc, rfl⟩
  | staysInCall => exact ⟨_, exec_rxFlag_of_staysInCall ha hc, rfl⟩

/-- Clearing a flag that is not set changes nothing. -/
theorem Receiver.clear_esc_of_false {rx : Receiver} (h : rx.esc = false) : { rx with esc := false } = rx := by
  rw [← h]

/-- A byte that is no FLAG marks an escape or stores one destuffed byte. -/
theorem exec_rxOnByte_of_ne_flag {s : State} {v : Byte} (he : s.rx.emitting = false) (hv : v ≠ FLAG) :
    exec (.rxOnByte v) s = .next (s.setRx { s.rx with esc := true }) ∨
    ∃ b, exec (.rxOnByte v) s = .next (s.setRx (Receiver.store { s.rx with esc := false } b)) := by
  rw [exec_rxOnByte_of_rxClass _ he rfl]
  cases hesc : s.rx.esc with
  | true =>
    rw [rxClass_pending, if_neg hv]
    exact .inr ⟨masked v, exec_rxEscData v s⟩
  | false =>
    rw [rxClass_clear, if_neg hv]
    split
    · exact .inl (exec_rxEsc s)
    · rw [Receiver.clear_esc_of_false hesc]
      exact .inr ⟨v, exec_rxData v s⟩

/-- Settles O25: `dropCause_cases` makes the causes exclusive; `exec_rxOnByte_flag_of_drop` and
`exec_rxOnByte_flag_of_no_drop` are a FLAG's two outcomes, `exec_rxOnByte_of_ne_flag` those of any other byte. -/
theorem dropCausesAtFlag : Obligations.DropCausesAtFlag := by
  refine ⟨⟨rfl, rfl, rfl⟩, fun s => ⟨dropCause_eq_abort, dropCause_eq_short, dropCause_eq_crc,
    exec_rxOnByte_flag_of_drop, exec_rxOnByte_flag_of_no_drop, fun v he hv => ?_⟩⟩
  obtain hmark | ⟨b, hstore⟩ := exec_rxOnByte_of_ne_flag he hv
  · exact ⟨_, hmark, rfl, .inl rfl⟩
  · exact ⟨_, hstore, rfl, .inr ⟨b, rfl⟩⟩

end Sys2Proof.Machine
end

section
/-! The usage faults (60_exceptions R154): which call raises each one, as an instruction and as an input, and that a
fault ends a run. -/

namespace Sys2Proof.Machine

variable {s : State} {rest : List Input}

theorem execTxSendFrame_of_busy (p : List Byte) (hb : s.tx.busy = true) :
    execTxSendFrame p s = .fault .concurrentSend :=
  if_pos hb

theorem execRxOnByte_of_emitting (v : Byte) (he : s.rx.emitting = true) :
    execRxOnByte v s = .fault .concurrentRx :=
  if_pos he

/-- A second caller's byte is CONCURRENT_RX on every receiver that exists. -/
theorem step_rxOverlap {r : Nat} {v : Byte} {q : Pool Receiver}
    (h : s.inputs = .rxOverlap r v :: rest) (hq : s.rxs.select r = some q) : step s = .fault .concurrentRx := by
  simp [step, fetch_cons h, fetchInput, withReceiver, hq]

/-- The consumer's own byte is REENTRANT_RX on a receiver that is emitting. -/
theorem step_consumerByte_of_emitting {r : Nat} {v : Byte} {q : Pool Receiver}
    (h : s.inputs = .consumerByte r v :: rest) (hq : s.rxs.select r = some q) (he : q.cur.emitting = true) :
    step s = .fault .reentrantRx := by
  simp [step, fetch_cons h, fetchInput, withReceiver, hq, State.rx, he]

/-- A foreign write is CONCURRENT_SEND on a transmitter that is sending. -/
theorem step_foreignWrite_of_busy {k : Nat} {x : Byte} {q : Pool Transmitter}
    (h : s.inputs = .foreignWrite k x :: rest) (hq : s.txs.select k = some q) (hb : q.cur.busy = true) :
    step s = .fault .concurrentSend := by
  simp [step, fetch_cons h, fetchInput, withTransmitter, hq, State.tx, hb]

/-- A run whose first step faults is that fault, however long the run. -/
theorem run_of_step_fault {f : Fault} (n : Nat) (h : step s = .fault f) :
    Sys2Proof.core.run (n + 1) s = .fault f := by
  have hcore : Sys2Proof.core.step s = .fault f := h
  simp only [Host.Core.run, hcore]

/-- Settles O45: each clause selects the receiver or transmitter the input names and is that input's fault lemma there;
`run_of_step_fault` is the last one. -/
theorem usageFaults : Obligations.UsageFaults := by
  refine ⟨fun _ => execTxSendFrame_of_busy, fun _ => execRxOnByte_of_emitting, fun s k rest tx htx hb => ?_,
    fun s r rest rx hrx => ?_, fun _ _ n => run_of_step_fault n⟩
  · obtain ⟨q, hq, rfl, -⟩ := Pool.select_of_get? htx
    refine ⟨fun p hin => ?_, fun _ hin => step_foreignWrite_of_busy hin hq hb⟩
    rw [step_sendFrame hin hq]
    exact execTxSendFrame_of_busy p hb
  · obtain ⟨q, hq, rfl, -⟩ := Pool.select_of_get? hrx
    refine ⟨fun _ hin => step_rxOverlap hin hq, fun v _ hin he => ?_,
      fun _ hin => step_consumerByte_of_emitting hin hq⟩
    rw [step_rxByte hin hq]
    exact execRxOnByte_of_emitting v he

end Sys2Proof.Machine
end

section
/-! Encoding and decoding (30_encoding sections 1 to 3): a word is its two fields, every well-formed instruction with
bits is what its bits decode to, and the opcode table's rows name it. -/

namespace Sys2Proof.Machine

open Config

/-- An RXW word is assembled from its two fields (30_encoding R60). -/
theorem rxWord_fields (w : RxWord) : rxWord (rxWordEsc w) (rxWordByte w) = w := by
  ext i hi
  rw [rxWord, rxWordEsc, rxWordByte, ← BitVec.getLsbD_eq_getElem, BitVec.getLsbD_append]
  by_cases h : i < 8
  · simp [h, ← BitVec.getLsbD_eq_getElem]
  · obtain rfl : i = 8 := by omega
    simp

/-- The value of an RXW word: bit 8 counts 0x100 (30_encoding R60). -/
theorem rxWord_toNat (esc : Bool) (v : Byte) : (rxWord esc v).toNat = (if esc then 0x100 else 0) + v.toNat := by
  have hv := v.isLt
  rw [rxWord, BitVec.toNat_append, ← Nat.shiftLeft_add_eq_or_of_lt hv]
  cases esc <;> rfl

theorem decodeTableWord_rxw (w : RxWord) : decodeTableWord 9 w.toNat = some (decodeRxw w) := by
  simp [decodeTableWord, decodeWord, w.isLt]

theorem decodeTableWord_txb (b : Byte) : decodeTableWord 8 b.toNat = some (decodeTxb b) := by
  simp [decodeTableWord, decodeWord, b.isLt]

/-- The instruction of a class of {esc, v} has the word {esc, v} as its bits (30_encoding R61). -/
theorem encode_rxClass (esc : Bool) (v : Byte) :
    (rxClass esc v).instr.wellFormed = true ∧ encode (rxClass esc v).instr = some (9, (rxWord esc v).toNat) := by
  rw [rxWord_toNat]
  cases esc with
  | false =>
    rw [rxClass_clear]
    split
    · subst v
      decide
    · split
      · subst v
        decide
      next hflag hesc =>
        exact ⟨by simpa [RxClass.instr, Instr.wellFormed] using ⟨hesc, hflag⟩, by simp [RxClass.instr, encode]⟩
  | true =>
    rw [rxClass_pending]
    split
    · subst v
      decide
    next hflag => exact ⟨by simpa [RxClass.instr, Instr.wellFormed] using hflag, rfl⟩

/-- A TXB byte is the bits of the instruction it decodes to (30_encoding R62). -/
theorem encode_decodeTxb (b : Byte) :
    (decodeTxb b).wellFormed = true ∧ encode (decodeTxb b) = some (8, b.toNat) := by
  unfold decodeTxb
  split
  · subst b
    decide
  · split
    · subst b
      decide
    next hesc hflag => exact ⟨by simpa [Instr.wellFormed] using ⟨hesc, hflag⟩, rfl⟩

/-- An RXW word is the bits of the instruction it decodes to (30_encoding R61). -/
theorem encode_decodeRxw (w : RxWord) :
    (decodeRxw w).wellFormed = true ∧ encode (decodeRxw w) = some (9, w.toNat) := by
  have h := encode_rxClass (rxWordEsc w) (rxWordByte w)
  rwa [rxWord_fields] at h

/-- Every well-formed instruction of the receiver's format is some word's (30_encoding R61). -/
theorem decodeRxw_surjective {i : Instr} (hi : i.wellFormed = true) (hf : i.format = .rxw) : ∃ w, decodeRxw w = i := by
  cases i with
  | rxFlag => exact ⟨rxWord false FLAG, rfl⟩
  | rxFlagAbort => exact ⟨rxWord true FLAG, rfl⟩
  | rxEsc => exact ⟨rxWord false ESC, rfl⟩
  | rxEscData v =>
    refine ⟨rxWord true v, ?_⟩
    rw [decodeRxw_rxWord, rxClass_pending, if_neg (by simpa [Instr.wellFormed] using hi), RxClass.instr]
  | rxData v =>
    obtain ⟨hesc, hflag⟩ : v ≠ ESC ∧ v ≠ FLAG := by simpa [Instr.wellFormed] using hi
    refine ⟨rxWord false v, ?_⟩
    rw [decodeRxw_rxWord, rxClass_clear, if_neg hflag, if_neg hesc, RxClass.instr]
  | txPutEscapedEsc | txPutEscapedFlag | txPutLiteral | crcUpdate | rxOnByte | txSendFrame => cases hf

/-- Every well-formed instruction of the transmitter's format is some byte's (30_encoding R62). -/
theorem decodeTxb_surjective {i : Instr} (hi : i.wellFormed = true) (hf : i.format = .txb) : ∃ b, decodeTxb b = i := by
  cases i with
  | txPutEscapedEsc => exact ⟨ESC, rfl⟩
  | txPutEscapedFlag => exact ⟨FLAG, rfl⟩
  | txPutLiteral b =>
    obtain ⟨hesc, hflag⟩ : b ≠ ESC ∧ b ≠ FLAG := by simpa [Instr.wellFormed] using hi
    exact ⟨b, by rw [decodeTxb, if_neg hesc, if_neg hflag]⟩
  | rxFlag | rxFlagAbort | rxEsc | rxEscData | rxData | crcUpdate | rxOnByte | txSendFrame => cases hf

/-- Exactly the operations have no bits (30_encoding R60). -/
theorem encode_eq_none {i : Instr} : encode i = none ↔ i.format = .operation := by
  cases i <;> simp [encode, Instr.format]

/-- Settles O1: a well-formed instruction with bits is decoded from some word or byte (`decodeRxw_surjective`,
`decodeTxb_surjective`), whose bits `encode` gives back. -/
theorem decodeEncodeAgree : Obligations.DecodeEncodeAgree := by
  refine ⟨fun i n w hi he => ?_, fun i => encode_eq_none⟩
  cases hf : i.format with
  | rxw =>
    obtain ⟨x, rfl⟩ := decodeRxw_surjective hi hf
    obtain ⟨rfl, rfl⟩ : 9 = n ∧ x.toNat = w := by simpa [encode_decodeRxw] using he
    exact decodeTableWord_rxw x
  | txb =>
    obtain ⟨b, rfl⟩ := decodeTxb_surjective hi hf
    obtain ⟨rfl, rfl⟩ : 8 = n ∧ b.toNat = w := by simpa [encode_decodeTxb] using he
    exact decodeTableWord_txb b
  | operation => simp [encode_eq_none.2 hf] at he

/-- Settles O2: `encode_decodeRxw` and `encode_decodeTxb`, each by the rows of its decode table. -/
theorem encodeDecodeAgree : Obligations.EncodeDecodeAgree :=
  ⟨encode_decodeRxw, encode_decodeTxb⟩

/-- The bits of every well-formed instruction fit its own row of the opcode table first. -/
theorem rowFit (i : Instr) : Laws.RowFit.Statement i := by
  cases i with
  | rxFlag => exact Laws.RowFit.rxFlag
  | rxFlagAbort => exact Laws.RowFit.rxFlagAbort
  | rxEsc => exact Laws.RowFit.rxEsc
  | rxEscData v => exact Laws.RowFit.rxEscData v
  | rxData v => exact Laws.RowFit.rxData v
  | txPutEscapedEsc => exact Laws.RowFit.txPutEscapedEsc
  | txPutEscapedFlag => exact Laws.RowFit.txPutEscapedFlag
  | txPutLiteral b => exact Laws.RowFit.txPutLiteral b
  | crcUpdate c b => exact Laws.RowFit.crcUpdate c b
  | rxOnByte v => exact Laws.RowFit.rxOnByte v
  | txSendFrame p => exact Laws.RowFit.txSendFrame p

/-- Settles O4: the decoded instruction has the word as its bits, and `rowFit` names the first row those fit. -/
theorem opcodeRowsAgreeWithDecoder : Obligations.OpcodeRowsAgreeWithDecoder := by
  refine ⟨fun w => ?_, fun b => ?_⟩
  · obtain ⟨hwf, henc⟩ := encode_decodeRxw w
    obtain ⟨⟨-, hformat⟩ | ⟨hbits, -⟩, -, hrow⟩ := (rowFit _ hwf).2 _ henc
    · rwa [hformat] at hrow
    · cases hbits
  · obtain ⟨hwf, henc⟩ := encode_decodeTxb b
    obtain ⟨⟨hbits, -⟩ | ⟨-, hformat⟩, -, hrow⟩ := (rowFit _ hwf).2 _ henc
    · cases hbits
    · rwa [hformat] at hrow

/-- Settles O5: each word is a numeral, so the decoder computes its instruction or its refusal. -/
theorem spelledWordsDecode : Obligations.SpelledWordsDecode := by
  unfold Obligations.SpelledWordsDecode
  decide

end Sys2Proof.Machine
end

section
/-! The stuffed form of a sequence (30_encoding R62, R69): how long it is, and that no reserved byte stands alone in
it. -/

namespace Sys2Proof.Machine

open Config

/-- A byte with a reserved value goes out as two, any other as one (30_encoding R62). -/
theorem stuff_length (b : Byte) : (stuff b).length = 1 + if b = ESC ∨ b = FLAG then 1 else 0 := by
  unfold stuff
  split <;> rfl

/-- Stuffing adds one byte for each byte with a reserved value. -/
theorem stuffAll_length (s : List Byte) :
    (stuffAll s).length = s.length + s.countP fun b => b == ESC || b == FLAG := by
  induction s with
  | nil => rfl
  | cons b s ih =>
    rw [stuffAll_cons, List.length_append, stuff_length, ih, List.length_cons, List.countP_cons]
    simp only [Bool.or_eq_true, beq_iff_eq]
    omega

/-- The first byte of a wire unit tells its length (30_encoding R69). -/
theorem wireUnitLength_stuff (b : Byte) : (stuff b).head?.map wireUnitLength = some (stuff b).length := by
  by_cases hb : b = ESC ∨ b = FLAG
  · rw [stuff_escaped hb]
    rfl
  · obtain ⟨hesc, hflag⟩ := not_or.1 hb
    rw [stuff_literal hesc hflag, List.head?_cons, Option.map_some, wireUnitLength, if_neg hesc,
      List.length_singleton]

/-- Settles O7: a frame is two delimiters around the stuffed payload and FCS, whose length `stuffAll_length` counts. -/
theorem wireLength : Obligations.WireLength := by
  refine ⟨fun p => ?_, wireUnitLength_stuff⟩
  have hcount := List.countP_le_length (p := fun b : Byte => b == ESC || b == FLAG)
    (l := p ++ [lowByte (fcs (fold SEED p)), highByte (fcs (fold SEED p))])
  have hlen := stuffAll_length (p ++ [lowByte (fcs (fold SEED p)), highByte (fcs (fold SEED p))])
  rw [encodeFrame_eq, List.length_cons, List.length_append]
  dsimp only [SEED, ESC, FLAG] at hcount hlen ⊢
  simp only [List.length_append, List.length_cons, List.length_nil] at hcount hlen ⊢
  omega

/-- The masked form of a reserved byte is 0x5D or 0x5E (30_encoding R62). -/
theorem masked_reserved {b : Byte} (h : b = ESC ∨ b = FLAG) : masked b = 0x5D ∨ masked b = 0x5E := by
  rcases h with rfl | rfl
  · exact .inl rfl
  · exact .inr rfl

/-- No FLAG is among the stuffed bytes. -/
theorem flag_notMem_stuffAll (s : List Byte) : FLAG ∉ stuffAll s := by
  rw [stuffAll, List.mem_flatMap]
  rintro ⟨b, -, hmem⟩
  by_cases hb : b = ESC ∨ b = FLAG
  · rw [stuff_escaped hb] at hmem
    rcases masked_reserved hb with hm | hm <;> simp [hm] at hmem
  · obtain ⟨hesc, hflag⟩ := not_or.1 hb
    rw [stuff_literal hesc hflag, List.mem_singleton] at hmem
    exact hflag hmem.symm

/-- Every ESC among the stuffed bytes is followed by the masked form of a reserved byte. -/
theorem esc_in_stuffAll (s : List Byte) (i : Nat) (h : (stuffAll s)[i]? = some ESC) :
    (stuffAll s)[i + 1]? = some 0x5D ∨ (stuffAll s)[i + 1]? = some 0x5E := by
  induction s generalizing i with
  | nil => simp at h
  | cons b s ih =>
    rw [stuffAll_cons] at h ⊢
    by_cases hb : b = ESC ∨ b = FLAG
    · have hm := masked_reserved hb
      rw [stuff_escaped hb] at h ⊢
      match i with
      | 0 => simpa using hm
      | 1 => rcases hm with hm | hm <;> simp [hm] at h
      | i + 2 => exact ih i h
    · obtain ⟨hesc, hflag⟩ := not_or.1 hb
      rw [stuff_literal hesc hflag] at h ⊢
      match i with
      | 0 => exact absurd (Option.some.inj h) hesc
      | i + 1 => exact ih i h

/-- Settles O8: the body is the stuffed payload and FCS, in which `flag_notMem_stuffAll` and `esc_in_stuffAll` hold. -/
theorem noBareDelimiterInBody : Obligations.NoBareDelimiterInBody :=
  fun p => ⟨_, encodeFrame_eq p, flag_notMem_stuffAll _, esc_in_stuffAll _⟩

end Sys2Proof.Machine
end

section
/-! The CRC engine (40_crc_engine): the table is the bit-serial form of a byte, so the update is linear, and what it
does to a message's own FCS does not depend on the message. -/

namespace Sys2Proof.Machine

open Config

/-- Entry `n` of the table as the generation rule gives it (40_crc_engine R81). -/
def serialEntry (n : Nat) : Crc :=
  serialShift 8 (BitVec.ofNat 16 n)

/-- The table's eight parts are eight parts of the generation rule's list. -/
theorem crcTable_eq : crcTable = (List.range' 0 256).map serialEntry := by
  have h00 : crcTable00 = (List.range' 0 32).map serialEntry := by decide
  have h20 : crcTable20 = (List.range' 32 32).map serialEntry := by decide
  have h40 : crcTable40 = (List.range' 64 32).map serialEntry := by decide
  have h60 : crcTable60 = (List.range' 96 32).map serialEntry := by decide
  have h80 : crcTable80 = (List.range' 128 32).map serialEntry := by decide
  have hA0 : crcTableA0 = (List.range' 160 32).map serialEntry := by decide
  have hC0 : crcTableC0 = (List.range' 192 32).map serialEntry := by decide
  have hE0 : crcTableE0 = (List.range' 224 32).map serialEntry := by decide
  rw [crcTable, h00, h20, h40, h60, h80, hA0, hC0, hE0]
  iterate 7 rw [← List.map_append, List.range'_append_1]

/-- The table entry of a byte is eight steps of the bit-serial form (40_crc_engine R81). -/
theorem tableEntry_eq (n : Byte) : tableEntry n = serialShift 8 (n.setWidth 16) := by
  have hn := n.isLt
  rw [tableEntry, crcTable_eq, List.getD_eq_getElem _ _ (by simpa using hn)]
  simp [serialEntry]

/-- Settles O10: `crcTable_eq` holds the table's parts to the rule's list, `tableEntry_eq` reads one entry of it. -/
theorem tableFollowsGenerationRule : Obligations.TableFollowsGenerationRule :=
  ⟨by rw [crcTable_eq, List.length_map, List.length_range'], tableEntry_eq⟩

/-- Shifting out zero bits folds no polynomial in. -/
theorem serialShift_shiftLeft {n : Nat} (b : Byte) (hn : n ≤ 8) :
    serialShift n (b.setWidth 16 <<< n) = b.setWidth 16 := by
  induction n with
  | zero => simp [serialShift]
  | succ n ih =>
    have hlow : (b.setWidth 16 <<< (n + 1)).getLsbD 0 = false := by simp
    have hshift : (b.setWidth 16 <<< (n + 1)) >>> 1 = b.setWidth 16 <<< n := by
      refine BitVec.eq_of_getLsbD_eq fun i hi => ?_
      have hbyte : 8 ≤ i - n → b.getLsbD (i - n) = false := b.getLsbD_of_ge _
      simp only [BitVec.getLsbD_ushiftRight, BitVec.getLsbD_shiftLeft, BitVec.getLsbD_setWidth,
        show 1 + i - (n + 1) = i - n by omega]
      by_cases hin : i < n
      · simp [hin, show 1 + i < n + 1 by omega]
      · by_cases hout : 8 ≤ i - n
        · rw [hbyte hout]
          simp
        · simp [hin, show n < 1 + i by omega, show 1 + i < 16 by omega, hi]
    rw [serialShift, hlow, if_neg Bool.false_ne_true, hshift]
    exact ih (by omega)

/-- The high byte is what a shift by eight leaves (20_memory R43). -/
theorem setWidth_highByte (c : Crc) : (highByte c).setWidth 16 = c >>> 8 := by
  ext i hi
  simp only [highByte, BitVec.getElem_setWidth, BitVec.getLsbD_setWidth, BitVec.getLsbD_ushiftRight,
    BitVec.getElem_ushiftRight]
  by_cases h : i < 8
  · simp [h]
  · simp [c.getLsbD_of_ge (8 + i) (by omega)]

/-- The bit-serial form shifts out a low byte and folds it; the high byte moves down (40_crc_engine R85). -/
theorem serialShift_eight (c : Crc) : serialShift 8 c = c >>> 8 ^^^ tableEntry (lowByte c) := by
  conv_lhs => rw [crc_eq_bytes c, serialShift_xor, serialShift_shiftLeft _ (Nat.le_refl 8), ← tableEntry_eq]
  rw [setWidth_highByte]

/-- Settles O11: the byte XORed in leaves the high byte of the accumulator, and `serialShift_eight` does the rest. -/
theorem updateIsBitSerial : Obligations.UpdateIsBitSerial := by
  intro c b
  have hhigh : (c ^^^ b.setWidth 16) >>> 8 = c >>> 8 := by
    have hnone : b.setWidth 16 >>> 8 = 0#16 := by
      apply BitVec.eq_of_toNat_eq
      have hb := b.isLt
      rw [BitVec.toNat_ushiftRight, BitVec.toNat_setWidth, Nat.shiftRight_eq_div_pow, BitVec.toNat_zero]
      omega
    rw [BitVec.ushiftRight_xor_distrib, hnone, BitVec.xor_zero]
  rw [update, updateSerial, serialShift_eight, tableIndex_eq_lowByte, hhigh]

/-- The update is the bit-serial form (40_crc_engine R85). -/
theorem update_eq (c : Crc) (b : Byte) : update c b = serialShift 8 (c ^^^ b.setWidth 16) :=
  updateIsBitSerial c b

theorem update_xor (c d : Crc) (a b : Byte) : update (c ^^^ d) (a ^^^ b) = update c a ^^^ update d b := by
  rw [update_eq, update_eq, update_eq, ← serialShift_xor, BitVec.setWidth_xor]
  congr 1
  ac_rfl

/-- Settles O12: the table and the update are bit-serial forms, which `serialShift_xor` says are linear. -/
theorem updateIsLinear : Obligations.UpdateIsLinear := by
  refine ⟨fun i j => ?_, rfl, update_xor⟩
  rw [tableEntry_eq, tableEntry_eq, tableEntry_eq, BitVec.setWidth_xor, serialShift_xor]

@[simp] theorem zeroUpdate_zero : zeroUpdate 0 = 0 := rfl

theorem zeroUpdate_xor (c d : Crc) : zeroUpdate (c ^^^ d) = zeroUpdate c ^^^ zeroUpdate d :=
  update_xor c d 0 0

/-- A difference of accumulators passes through an update whatever byte is folded (40_crc_engine R86). -/
theorem update_xor_left (c d : Crc) (b : Byte) : update (c ^^^ d) b = update c b ^^^ zeroUpdate d := by
  show _ = update c b ^^^ update d 0#8
  rw [← update_xor, BitVec.xor_zero]

theorem serialShift_one (c : Crc) : serialShift 1 c = if c.getLsbD 0 then c >>> 1 ^^^ POLY else c >>> 1 := rfl

/-- One bit-serial step: the polynomial's top bit is 1, so the result's top bit is the bit that was shifted out. -/
theorem serialShift_one_msb (c : Crc) : (serialShift 1 c).getLsbD 15 = c.getLsbD 0 := by
  rw [serialShift_one]
  cases c.getLsbD 0 with
  | false => simp
  | true => simp

theorem serialShift_succ (n : Nat) (c : Crc) : serialShift (n + 1) c = serialShift n (serialShift 1 c) := rfl

theorem serialShift_one_injective : Function.Injective (serialShift 1) := by
  intro c d h
  have hlow : c.getLsbD 0 = d.getLsbD 0 := by rw [← serialShift_one_msb, h, serialShift_one_msb]
  have hhigh : c >>> 1 = d >>> 1 := by
    rw [serialShift_one, serialShift_one, hlow] at h
    cases hbit : d.getLsbD 0 with
    | false => rwa [hbit, if_neg Bool.false_ne_true, if_neg Bool.false_ne_true] at h
    | true => rwa [hbit, if_pos rfl, if_pos rfl, BitVec.xor_left_inj] at h
  refine BitVec.eq_of_getLsbD_eq fun i hi => ?_
  cases i with
  | zero => exact hlow
  | succ i => simpa [Nat.add_comm 1] using congrArg (BitVec.getLsbD · i) hhigh

theorem serialShift_injective (n : Nat) : Function.Injective (serialShift n) := by
  induction n with
  | zero => exact fun _ _ h => h
  | succ n ih => exact ih.comp serialShift_one_injective

theorem zeroUpdate_eq (d : Crc) : zeroUpdate d = serialShift 8 d := by
  rw [zeroUpdate, update_eq]
  simp

theorem zeroUpdate_injective : Function.Injective zeroUpdate := by
  intro c d h
  rw [zeroUpdate_eq, zeroUpdate_eq] at h
  exact serialShift_injective 8 h

/-- Settles O13: `update_xor_left`, and an injection of a finite type into itself is a bijection. -/
theorem differencePassesThroughUpdate : Obligations.DifferencePassesThroughUpdate :=
  ⟨update_xor_left, Finite.injective_iff_bijective.1 zeroUpdate_injective⟩

/-- Folding the two bytes of a value, low byte first, folds the value as a whole: the high byte reaches the low end just
when it is due. -/
theorem fold_bytes (c f : Crc) : fold c [lowByte f, highByte f] = serialShift 8 (serialShift 8 (c ^^^ f)) := by
  have hsplit : c ^^^ f = c ^^^ (lowByte f).setWidth 16 ^^^ (highByte f).setWidth 16 <<< 8 := by
    conv_lhs => rw [crc_eq_bytes f]
    ac_rfl
  rw [fold_cons, fold_cons, fold_nil, update_eq, update_eq, hsplit,
    serialShift_xor 8 (c ^^^ _), serialShift_shiftLeft (highByte f) (Nat.le_refl 8)]

/-- Any accumulator followed by its own complement, low byte first, folds to the residual (40_crc_engine R87). -/
theorem fold_fcs (c : Crc) : fold c [lowByte (fcs c), highByte (fcs c)] = GOOD := by
  have hones : c ^^^ fcs c = 0xFFFF := by
    rw [fcs, ← BitVec.xor_assoc, BitVec.xor_self, BitVec.zero_xor]
  have hfirst : serialShift 8 0xFFFF = 0x0F87 := by decide
  rw [fold_bytes, hones, hfirst]
  decide

/-- Settles O14: `fold_fcs` for the accumulator the message leaves. -/
theorem residualLaw : Obligations.ResidualLaw :=
  fun m => (fold_append _ m _).trans (fold_fcs _)

/-- The table's index is the low eight bits of the XORed accumulator, as a mask takes them (30_encoding R67). -/
theorem tableIndex_toNat (c : Crc) (b : Byte) :
    (tableIndex c b).toNat = ((c ^^^ b.setWidth 16) &&& 0xFF).toNat := by
  rw [tableIndex, BitVec.toNat_setWidth, BitVec.toNat_and]
  exact (Nat.and_two_pow_sub_one_eq_mod _ 8).symm

/-- The update with its index written as a mask (40_crc_engine R80). -/
theorem update_eq_masked (c : Crc) (b : Byte) :
    update c b = (c >>> 8) ^^^ crcTable.getD ((c ^^^ b.setWidth 16) &&& 0xFF).toNat 0 := by
  rw [update, tableEntry, tableIndex_toNat]

/-- Settles O9: `update_eq_masked` is the rule; after eight more bits nothing of the accumulator is left beside the
table entry. -/
theorem crcUpdateResult : Obligations.CrcUpdateResult := by
  refine ⟨fun c b s => ?_, fun s => rfl, fun c b => ?_, fun s => rfl⟩
  · rw [← update_eq_masked]
    rfl
  · have hgone : c >>> 8 >>> 8 = 0#16 := by
      rw [← BitVec.shiftRight_add]
      exact BitVec.ushiftRight_eq_zero (Nat.le_refl 16)
    rw [update_eq_masked, BitVec.ushiftRight_xor_distrib, hgone, BitVec.zero_xor]

end Sys2Proof.Machine
end

section
/-! The receiver's instructions: what they leave unchanged, what an emission reads, and the emission a consumer holds
(41_frame_receiver R101 to R107, 20_memory sections 1 and 5). -/

namespace Sys2Proof.Machine

open Config

/-- The consumer's return completes the FLAG's reset (41_frame_receiver R107). -/
theorem step_consumerReturns {s : State} {r : Nat} {rest : List Input} {q : Pool Receiver}
    (h : s.inputs = .consumerReturns r :: rest) (hq : s.rxs.select r = some q) (he : q.cur.emitting = true) :
    step s = .next { s with inputs := rest, rxs := { q with cur := { q.cur.restart with emitting := false } } } := by
  simp [step, fetch_cons h, fetchInput, withReceiver, hq, State.rx, he, State.endEmission, State.setRx]

/-- Settles O17: the emission test's two branches with this consumer, and `step_consumerReturns`. -/
theorem emissionHeldUntilConsumerReturns : Obligations.EmissionHeldUntilConsumerReturns :=
  ⟨fun _ hc => ⟨fun ha => exec_rxFlag_of_staysInCall ha hc, exec_rxFlag_of_not_accepts⟩,
    fun _ _ _ _ => step_consumerReturns⟩

/-- Everything RX.FLAG can do: a reset that shows nothing, or an emission on an accepted run, with the reset now or
held. -/
theorem exec_rxFlag_next {s t : State} (h : exec .rxFlag s = .next t) :
    t = s.setRx s.rx.restart ∨
    s.rx.accepts ∧ (t = s.emit.setRx s.rx.restart ∨ t = s.emit.setRx { s.rx with emitting := true }) := by
  by_cases ha : s.rx.accepts
  · refine .inr ⟨ha, ?_⟩
    cases hc : s.consumer with
    | returnsAtOnce =>
      rw [exec_rxFlag_of_returnsAtOnce ha hc] at h
      cases h
      exact .inl rfl
    | staysInCall =>
      rw [exec_rxFlag_of_staysInCall ha hc] at h
      cases h
      exact .inr rfl
  · rw [exec_rxFlag_of_not_accepts ha] at h
    cases h
    exact .inl rfl

/-- Settles O22: a store is one write of the buffer, the other classes make none. -/
theorem storeTouchesOneCell : Obligations.StoreTouchesOneCell := by
  refine ⟨fun s v => ⟨_, exec_rxData v s, ?_, fun a ha => ?_⟩,
    fun s v => ⟨_, exec_rxEscData v s, ?_, fun a ha => ?_⟩, ?_⟩
  · rw [setRx_rx, store_buf, Memory.read_write_same]
  · rw [setRx_rx, store_buf, Memory.read_write_other _ _ ha]
  · rw [setRx_rx, store_buf, Memory.read_write_same, masked]
  · rw [setRx_rx, store_buf, Memory.read_write_other _ _ ha]
  · rintro i s t (rfl | rfl | rfl) h a
    · obtain rfl | ⟨-, rfl | rfl⟩ := exec_rxFlag_next h <;> rfl
    · cases h
      rfl
    · cases h
      rfl

/-- What the instruction of a class may write: the addressed receiver but for its MRU, and further outputs. -/
theorem exec_rxClass_frame {c : RxClass} {s t : State} (h : exec c.instr s = .next t) :
    ∃ rx shown, rx.mru = s.rx.mru ∧
      t = { s with rxs := { s.rxs with cur := rx }, outputs := s.outputs ++ shown } := by
  have silent {rx : Receiver} (ht : t = s.setRx rx) (hmru : rx.mru = s.rx.mru) : ∃ rx shown, rx.mru = s.rx.mru ∧
      t = { s with rxs := { s.rxs with cur := rx }, outputs := s.outputs ++ shown } :=
    ⟨rx, [], hmru, by rw [ht, List.append_nil, State.setRx]⟩
  cases c with
  | flag =>
    obtain ht | ⟨-, ht | ht⟩ := exec_rxFlag_next h
    · exact silent ht rfl
    · exact ⟨s.rx.restart, _, rfl, ht⟩
    · exact ⟨{ s.rx with emitting := true }, _, rfl, ht⟩
  | flagAbort =>
    cases h
    exact silent rfl rfl
  | esc =>
    cases h
    exact silent rfl rfl
  | escData v =>
    cases h
    exact silent rfl (store_mru _ _)
  | data v =>
    cases h
    exact silent rfl (store_mru _ _)

/-- Settles O23: RX.ON_BYTE is the instruction of a class, and `exec_rxClass_frame` is the frame of those. -/
theorem receiverInstrFrame : Obligations.ReceiverInstrFrame := by
  intro i s t hi h
  have hclass : ∃ c : RxClass, exec c.instr s = .next t := by
    obtain rfl | rfl | rfl | ⟨v, rfl⟩ | ⟨v, rfl⟩ | ⟨v, rfl⟩ := hi
    · exact ⟨.flag, h⟩
    · exact ⟨.flagAbort, h⟩
    · exact ⟨.esc, h⟩
    · exact ⟨.escData v, h⟩
    · exact ⟨.data v, h⟩
    · obtain ⟨he, -⟩ := execRxOnByte_next h
      exact ⟨_, (exec_rxOnByte_of_rxClass _ he rfl).symm.trans h⟩
  obtain ⟨c, hc⟩ := hclass
  obtain ⟨rx, shown, hmru, rfl⟩ := exec_rxClass_frame hc
  exact ⟨rfl, rfl, rfl, hmru, rfl, rfl, List.prefix_append _ _⟩

/-- What one byte shows: the payload, at a FLAG that ends an accepted run with no escape pending; else nothing. -/
theorem byteEffect_shows (r : Nat) (rx : Receiver) (v : Byte) :
    (byteEffect r rx v).2 = [] ∨
    rx.accepts ∧ rx.esc = false ∧ v = FLAG ∧ (byteEffect r rx v).2 = [.emission r (Receiver.payload r rx)] := by
  by_cases hk : rxClass rx.esc v = .flag
  · obtain ⟨hesc, hv⟩ := rxClass_eq_flag.1 hk
    unfold byteEffect
    rw [hk]
    by_cases ha : rx.accepts
    · exact .inr ⟨ha, hesc, hv, if_pos ha⟩
    · exact .inl (if_neg ha)
  · exact .inl (byteEffect_silent r hk)

/-- RX.ON_BYTE shows nothing, or the payload of an accepted run. -/
theorem execRxOnByte_outputs {s t : State} {v : Byte} (h : execRxOnByte v s = .next t) :
    t.outputs = s.outputs ∨
    s.rx.accepts ∧ t.outputs = s.outputs ++ [.emission s.rxs.here (Receiver.payload s.rxs.here s.rx)] := by
  obtain ⟨-, rfl | ⟨-, ha, -, -, rfl⟩⟩ := execRxOnByte_next h
  · obtain hsilent | ⟨ha, -, -, hshown⟩ := byteEffect_shows s.rxs.here s.rx v
    · exact .inl ((congrArg (s.outputs ++ ·) hsilent).trans (List.append_nil _))
    · exact .inr ⟨ha, congrArg (s.outputs ++ ·) hshown⟩
  · exact .inr ⟨ha, rfl⟩

/-- Settles O26: what is shown is the payload, two bytes shorter than an accepted run, and a run is shorter than MRU. -/
theorem emittedLengthBounds : Obligations.EmittedLengthBounds := by
  intro s t v hwf h
  obtain ⟨-, hlt, -⟩ := hwf
  obtain hsame | ⟨⟨(hmin : 16 ≤ s.rx.length), -⟩, hshown⟩ := execRxOnByte_outputs h
  · refine ⟨fun r bytes hout => ?_, fun _ => hsame⟩
    rw [hsame] at hout
    simp at hout
  · refine ⟨fun r bytes hout => ?_, fun hmru => ?_⟩
    · rw [hshown] at hout
      obtain ⟨-, rfl⟩ : s.rxs.here = r ∧ Receiver.payload s.rxs.here s.rx = bytes := by simpa using hout
      rw [payload_length]
      exact ⟨by omega, by omega⟩
    · omega

/-- A payload byte whose cell has been written is what was written there. -/
theorem payload_getElem? {rx : Receiver} {i : Nat} (r : Nat) (hi : i < rx.length - 2)
    (hw : (rx.buf.read i).isSome = true) : (Receiver.payload r rx)[i]? = rx.buf.read i := by
  obtain ⟨b, hb⟩ := Option.isSome_iff_exists.1 hw
  simp [Receiver.payload, Receiver.cells, Receiver.cell, hb, List.getElem?_range hi]

/-- Settles O27: the emission is the payload, and in a well-formed receiver every cell below the length is written. -/
theorem emissionReadsWrittenCells : Obligations.EmissionReadsWrittenCells := by
  intro s t bytes hwf h hout i hi
  obtain ⟨-, hlt, -, -, hwritten, -⟩ := hwf
  have hbytes : bytes = Receiver.payload s.rxs.here s.rx := by
    obtain rfl | ⟨-, rfl | rfl⟩ := exec_rxFlag_next h <;> simpa using hout.symm
  rw [hbytes, payload_length] at hi
  rw [hbytes, payload_getElem? _ hi (hwritten i (by omega))]
  exact ⟨by omega, rfl⟩

end Sys2Proof.Machine
end

section
/-! Bytes on the wire: what a run of delivered bytes does to the addressed receiver, stuffed bytes and delimiters
(41_frame_receiver section 4, 30_encoding R63). -/

namespace Sys2Proof.Machine

open Config

/-- The receiver after a sequence of destuffed bytes is stored (41_frame_receiver R104). -/
def Receiver.storeAll (rx : Receiver) (bytes : List Byte) : Receiver :=
  bytes.foldl Receiver.store rx

@[simp] theorem storeAll_nil (rx : Receiver) : rx.storeAll [] = rx := rfl

@[simp] theorem storeAll_cons (rx : Receiver) (b : Byte) (bytes : List Byte) :
    rx.storeAll (b :: bytes) = (rx.store b).storeAll bytes := rfl

@[simp] theorem storeAll_append (rx : Receiver) (a b : List Byte) :
    rx.storeAll (a ++ b) = (rx.storeAll a).storeAll b := by
  simp [Receiver.storeAll]

@[simp] theorem storeAll_mru (rx : Receiver) (bytes : List Byte) : (rx.storeAll bytes).mru = rx.mru := by
  induction bytes generalizing rx with
  | nil => rfl
  | cons b bytes ih => rw [storeAll_cons, ih, store_mru]

@[simp] theorem storeAll_esc (rx : Receiver) (bytes : List Byte) : (rx.storeAll bytes).esc = rx.esc := by
  induction bytes generalizing rx with
  | nil => rfl
  | cons b bytes ih => rw [storeAll_cons, ih, store_esc]

theorem wireEffect_append (r : Nat) (rx : Receiver) (a b : List Byte) :
    wireEffect r rx (a ++ b) =
      ((wireEffect r (wireEffect r rx a).1 b).1,
        (wireEffect r rx a).2 ++ (wireEffect r (wireEffect r rx a).1 b).2) := by
  induction a generalizing rx with
  | nil => rfl
  | cons v a ih => simp [wireEffect, ih]

theorem wireEffect_singleton (r : Nat) (rx : Receiver) (v : Byte) : wireEffect r rx [v] = byteEffect r rx v := by
  simp [wireEffect]

/-- A stuffed byte is stored once, and nothing is shown (30_encoding R63). -/
theorem wireEffect_stuff (r : Nat) {rx : Receiver} (b : Byte) (hesc : rx.esc = false) :
    wireEffect r rx (stuff b) = (rx.store b, []) := by
  by_cases hb : b = ESC ∨ b = FLAG
  · have hmark : byteEffect r rx ESC = ({ rx with esc := true }, []) := by
      unfold byteEffect
      rw [rxClass_eq_esc.2 ⟨hesc, rfl⟩]
    have hdata : byteEffect r { rx with esc := true } (masked b) = (rx.store b, []) := by
      have hmasked : masked b ≠ FLAG := by rcases hb with rfl | rfl <;> decide
      unfold byteEffect
      rw [rxClass_pending, if_neg hmasked]
      simp only [masked_masked, Receiver.clear_esc_of_false hesc]
    rw [stuff_escaped hb, wireEffect, hmark, wireEffect_singleton, hdata]
    rfl
  · obtain ⟨h1, h2⟩ := not_or.1 hb
    rw [stuff_literal h1 h2, wireEffect_singleton]
    unfold byteEffect
    rw [hesc, rxClass_clear, if_neg h2, if_neg h1]

/-- A stuffed sequence is stored byte by byte, and nothing is shown. -/
theorem wireEffect_stuffAll (r : Nat) {rx : Receiver} (bytes : List Byte) (hesc : rx.esc = false) :
    wireEffect r rx (stuffAll bytes) = (rx.storeAll bytes, []) := by
  induction bytes generalizing rx with
  | nil => rfl
  | cons b bytes ih =>
    rw [stuffAll_cons, wireEffect_append, wireEffect_stuff r b hesc, ih (by rw [store_esc, hesc])]
    rfl

/-- A FLAG with no escape pending: the emission test, then the reset (41_frame_receiver R101). -/
theorem byteEffect_flag (r : Nat) {rx : Receiver} (hesc : rx.esc = false) :
    byteEffect r rx FLAG = (rx.restart, if rx.accepts then [.emission r (Receiver.payload r rx)] else []) := by
  unfold byteEffect
  rw [rxClass_eq_flag.2 ⟨hesc, rfl⟩]

/-- Every FLAG resets, with an escape pending or not (41_frame_receiver R101, R102). -/
theorem byteEffect_flag_fst (r : Nat) (rx : Receiver) : (byteEffect r rx FLAG).1 = rx.restart := by
  unfold byteEffect
  cases hesc : rx.esc with
  | false => rw [rxClass_eq_flag.2 ⟨rfl, rfl⟩]
  | true => rw [rxClass_pending, if_pos rfl]

/-- With nothing stored a FLAG shows nothing. -/
theorem byteEffect_flag_snd_of_empty (r : Nat) {rx : Receiver} (h : rx.length = 0) :
    (byteEffect r rx FLAG).2 = [] := by
  obtain hsilent | ⟨⟨hmin, -⟩, -⟩ := byteEffect_shows r rx FLAG
  · exact hsilent
  · rw [h] at hmin
    exact absurd hmin (by decide)

/-- Bytes delivered to a receiver in no emission: the whole run completes and is `wireEffect`. -/
theorem runOn_deliver_next {s : State} {r : Nat} {rx : Receiver} (wire : List Byte)
    (h : s.rxs.get? r = some rx) (he : rx.emitting = false) :
    ∃ t, s.runOn (deliver r wire) = .next t ∧ t.rxs.get? r = some (wireEffect r rx wire).1 ∧
      t.outputs = s.outputs ++ (wireEffect r rx wire).2 := by
  obtain ⟨t, hrun, hget, hout, -⟩ := runOn_deliver wire [] h he
  rw [List.append_nil, runOn_nil] at hrun
  exact ⟨_, hrun, hget, hout⟩

/-- A byte delivered to a receiver in no emission, to a consumer that returns at once, is `byteEffect`. -/
theorem step_rxByte_returnsAtOnce {s : State} {r : Nat} {v : Byte} {rest : List Input} {q : Pool Receiver}
    (h : s.inputs = .rxByte r v .returnsAtOnce :: rest) (hq : s.rxs.select r = some q)
    (he : q.cur.emitting = false) :
    step s = .next
      { s with
        inputs := rest
        consumer := .returnsAtOnce
        rxs := { q with cur := (byteEffect r q.cur v).1 }
        outputs := s.outputs ++ (byteEffect r q.cur v).2 } := by
  obtain ⟨-, rfl, -⟩ := Pool.select_some hq
  exact (step_rxByte h hq).trans (execRxOnByte_returns he rfl)

/-- Bytes delivered to the addressed receiver: that receiver runs `wireEffect`, every other one stays. -/
theorem runOn_deliver_addressed (s : State) (wire : List Byte) (he : s.rx.emitting = false) :
    ∃ t, s.runOn (deliver s.rxs.here wire) = .next t ∧
      t.rxs = { s.rxs with cur := (wireEffect s.rxs.here s.rx wire).1 } ∧ t.txs = s.txs ∧
      t.outputs = s.outputs ++ (wireEffect s.rxs.here s.rx wire).2 := by
  induction wire generalizing s with
  | nil => exact ⟨_, rfl, rfl, rfl, (List.append_nil _).symm⟩
  | cons v wire ih =>
    obtain ⟨u, hstep, hin, hrxs, htxs, hout⟩ :
        ∃ u, step { s with inputs := .rxByte s.rxs.here v .returnsAtOnce :: deliver s.rxs.here wire } = .next u ∧
          u.inputs = deliver s.rxs.here wire ∧
          u.rxs = { s.rxs with cur := (byteEffect s.rxs.here s.rx v).1 } ∧ u.txs = s.txs ∧
          u.outputs = s.outputs ++ (byteEffect s.rxs.here s.rx v).2 :=
      ⟨_, step_rxByte_returnsAtOnce rfl (Pool.select_here _) he, rfl, rfl, rfl, rfl⟩
    have hcur : u.rx = (byteEffect s.rxs.here s.rx v).1 := congrArg Pool.cur hrxs
    have hhere : u.rxs.here = s.rxs.here := by rw [hrxs, Pool.setCur_here]
    obtain ⟨t, hrun, hrxs', htxs', hout'⟩ := ih u (by rw [hcur, byteEffect_emitting, he])
    rw [hhere] at hrun
    rw [hcur, hhere, hrxs] at hrxs'
    rw [hcur, hhere, hout, List.append_assoc] at hout'
    exact ⟨t, (runOn_cons hstep hin).trans hrun, hrxs', htxs'.trans htxs, hout'⟩

/-- Settles O28: `wireEffect_stuff` on the addressed receiver; an escaped byte that is no FLAG is RX.ESCDATA. -/
theorem stuffedByteStoredOnce : Obligations.StuffedByteStoredOnce := by
  refine ⟨fun s b hesc he => ?_, fun s x hesc he hx => ?_⟩
  · obtain ⟨t, hrun, hrxs, htxs, hout⟩ := runOn_deliver_addressed s (stuff b) he
    rw [wireEffect_stuff _ b hesc] at hrxs hout
    refine ⟨t, hrun, hrxs, ?_, htxs, by rw [hout, List.append_nil]⟩
    rw [State.rx, hrxs]
    exact (store_esc _ _).trans hesc
  · rw [exec_rxOnByte_of_rxClass (.escData x) he (by rw [hesc, rxClass_pending, if_neg hx]), RxClass.instr,
      exec_rxEscData, masked]

end Sys2Proof.Machine
end

section
/-! History independence (41_frame_receiver section 4): a FLAG leaves nothing of what came before it that a later byte
could show. -/

namespace Sys2Proof.Machine

open Config

/-- Two receivers on the same run: they agree on every register and on every cell below the length. -/
structure Receiver.SameRun (a b : Receiver) : Prop where
  mru : a.mru = b.mru
  crc : a.crc = b.crc
  length : a.length = b.length
  esc : a.esc = b.esc
  cells : ∀ i < a.length, a.buf.read i = b.buf.read i

variable {a b : Receiver}

theorem Receiver.SameRun.restart (hmru : a.mru = b.mru) : a.restart.SameRun b.restart :=
  ⟨hmru, rfl, rfl, rfl, fun _ hi => absurd hi (Nat.not_lt_zero _)⟩

theorem Receiver.SameRun.setEsc (h : a.SameRun b) (esc : Bool) :
    Receiver.SameRun { a with esc := esc } { b with esc := esc } :=
  ⟨h.mru, h.crc, h.length, rfl, h.cells⟩

theorem Receiver.SameRun.accepts_iff (h : a.SameRun b) : a.accepts ↔ b.accepts := by
  rw [Receiver.accepts, h.crc, h.length]

/-- Receivers on the same run have the same payload: it lies below the length. -/
theorem Receiver.SameRun.payload_eq (h : a.SameRun b) (r : Nat) : Receiver.payload r a = Receiver.payload r b := by
  rw [Receiver.payload, Receiver.payload, Receiver.cells, Receiver.cells, h.length]
  refine List.map_congr_left fun i hi => ?_
  have hlt := List.mem_range.1 hi
  rw [Receiver.cell, Receiver.cell, h.cells i (by rw [h.length]; omega)]

/-- Storing the same byte keeps receivers on the same run, over a wrap too. -/
theorem Receiver.SameRun.store (h : a.SameRun b) (v : Byte) : (a.store v).SameRun (b.store v) := by
  have hcells : ∀ i < a.length + 1, (a.store v).buf.read i = (b.store v).buf.read i := by
    intro i hi
    rw [store_buf, store_buf, Memory.read_write, Memory.read_write, ← h.length]
    split
    · rfl
    · exact h.cells i (by omega)
  by_cases hw : a.length + 1 = a.mru
  · have ha := store_wrap v hw
    have hb := store_wrap (rx := b) v (by rw [← h.length, ← h.mru, hw])
    exact ⟨by simp [h.mru], by simp [ha, hb, h.crc], by simp [ha, hb], by simp [h.esc],
      fun i hi => absurd hi (by simp [ha])⟩
  · have ha := store_noWrap v hw
    have hb := store_noWrap (rx := b) v (by rwa [← h.length, ← h.mru])
    exact ⟨by simp [h.mru], by simp [ha, hb, h.crc], by simp [ha, hb, h.length], by simp [h.esc],
      fun i hi => hcells i (by simpa [ha] using hi)⟩

/-- The same byte shows the same and keeps receivers on the same run. -/
theorem Receiver.SameRun.byteEffect (h : a.SameRun b) (r : Nat) (v : Byte) :
    (byteEffect r a v).1.SameRun (byteEffect r b v).1 ∧ (byteEffect r a v).2 = (byteEffect r b v).2 := by
  unfold Machine.byteEffect
  rw [h.esc]
  cases rxClass b.esc v with
  | flag => exact ⟨.restart h.mru, by simp only [h.accepts_iff, h.payload_eq]⟩
  | flagAbort => exact ⟨.restart h.mru, rfl⟩
  | esc => exact ⟨h.setEsc true, rfl⟩
  | escData v => exact ⟨(h.setEsc false).store _, rfl⟩
  | data v => exact ⟨h.store v, rfl⟩

/-- The same wire bytes show the same. -/
theorem Receiver.SameRun.wireEffect_snd (h : a.SameRun b) (r : Nat) (wire : List Byte) :
    (wireEffect r a wire).2 = (wireEffect r b wire).2 := by
  induction wire generalizing a b with
  | nil => rfl
  | cons v wire ih =>
    obtain ⟨hsame, hshown⟩ := h.byteEffect r v
    rw [wireEffect, wireEffect, hshown, ih hsame]

/-- Settles O29: the FLAG puts both receivers on the same run, and `wireEffect_snd` carries that to any wire bytes. -/
theorem flagForgetsHistory : Obligations.FlagForgetsHistory := by
  intro s1 s2 r a b wire ha hb hmru hea heb
  obtain ⟨u1, hu1, hget1, -⟩ := runOn_deliver_next [FLAG] ha hea
  obtain ⟨u2, hu2, hget2, -⟩ := runOn_deliver_next [FLAG] hb heb
  rw [wireEffect_singleton, byteEffect_flag_fst] at hget1 hget2
  obtain ⟨t1, ht1, -, hout1⟩ := runOn_deliver_next wire hget1 hea
  obtain ⟨t2, ht2, -, hout2⟩ := runOn_deliver_next wire hget2 heb
  refine ⟨u1, u2, t1, t2, _, hu1, hu2, ht1, ht2, hout1, ?_⟩
  rw [hout2, (Receiver.SameRun.restart hmru).wireEffect_snd]

end Sys2Proof.Machine
end

section
/-! Runs of stored bytes (41_frame_receiver R104, section 4): length, CRC and cells after a run, with the wraps'
difference as a sum that each stored byte moves on. -/

namespace Sys2Proof.Machine

open Config

/-- A receiver with no run stored: the registers every FLAG and every creation leave (41_frame_receiver R101). -/
structure Receiver.Fresh (rx : Receiver) : Prop where
  length : rx.length = 0
  crc : rx.crc = SEED
  esc : rx.esc = false

theorem Receiver.restart_fresh (rx : Receiver) : rx.restart.Fresh := ⟨rfl, rfl, rfl⟩

theorem Receiver.create_fresh (mru : Nat) : (Receiver.create mru).Fresh := ⟨rfl, rfl, rfl⟩

/-- Storing below MRU counts every byte; no cell below the length is written again. -/
theorem storeAll_of_no_wrap {rx : Receiver} (bytes : List Byte) (h : rx.length + bytes.length < rx.mru) :
    (rx.storeAll bytes).length = rx.length + bytes.length ∧
    (∀ i < rx.length, (rx.storeAll bytes).buf.read i = rx.buf.read i) ∧
    ∀ i < bytes.length, (rx.storeAll bytes).buf.read (rx.length + i) = bytes[i]? := by
  induction bytes generalizing rx with
  | nil => exact ⟨rfl, fun _ _ => rfl, fun _ hi => absurd hi (Nat.not_lt_zero _)⟩
  | cons b bytes ih =>
    rw [List.length_cons] at h ⊢
    have hlen : (rx.store b).length = rx.length + 1 := by rw [store_noWrap b (by omega)]
    obtain ⟨hlength, hold, hnew⟩ := ih (rx := rx.store b) (by rw [hlen, store_mru]; omega)
    rw [hlen] at hlength hold hnew
    rw [storeAll_cons]
    refine ⟨by omega, fun i hi => ?_, fun i hi => ?_⟩
    · rw [hold i (by omega), store_buf, Memory.read_write_other _ _ (by omega)]
    · cases i with
      | zero =>
        rw [Nat.add_zero, hold _ (Nat.lt_succ_self _), store_buf, Memory.read_write_same, List.getElem?_cons_zero]
      | succ i =>
        rw [List.getElem?_cons_succ, ← hnew i (by omega)]
        congr 1
        omega

/-- The payload after a run that did not wrap is the run without its last two bytes. -/
theorem payload_storeAll (r : Nat) {rx : Receiver} (bytes : List Byte) (h0 : rx.length = 0)
    (h : bytes.length < rx.mru) : Receiver.payload r (rx.storeAll bytes) = bytes.take (bytes.length - 2) := by
  obtain ⟨hlength, -, hnew⟩ := storeAll_of_no_wrap (rx := rx) bytes (by omega)
  rw [h0, Nat.zero_add] at hlength
  refine List.ext_getElem? fun i => ?_
  by_cases hi : i < bytes.length - 2
  · have hread : (rx.storeAll bytes).buf.read i = bytes[i]? := by simpa [h0] using hnew i (by omega)
    have hsome : bytes[i]?.isSome = true := by simp; omega
    rw [payload_getElem? r (by omega) (by rw [hread, hsome]), hread, List.getElem?_take_of_lt hi]
  · rw [List.getElem?_eq_none (by rw [payload_length]; omega), List.getElem?_eq_none (by rw [List.length_take]; omega)]

/-- `BitVec.zero_xor` with the zero written as the model writes it. -/
theorem crc_zero_xor (d : Crc) : 0 ^^^ d = d :=
  BitVec.zero_xor

/-- The differences the first `w` wraps leave after `n` stored bytes (41_frame_receiver R109(b)). -/
def wrapDelta (mru n w : Nat) : Crc :=
  (List.range w).foldl (fun d j => d ^^^ zeroUpdate^[n - (j + 1) * mru] WRAPXOR) 0

theorem overflowDelta_eq (mru n : Nat) : overflowDelta mru n = wrapDelta mru n (n / mru) := rfl

@[simp] theorem wrapDelta_zero (mru n : Nat) : wrapDelta mru n 0 = 0 := rfl

theorem wrapDelta_succ (mru n w : Nat) :
    wrapDelta mru n (w + 1) = wrapDelta mru n w ^^^ zeroUpdate^[n - (w + 1) * mru] WRAPXOR := by
  simp [wrapDelta, List.range_succ]

/-- One more stored byte moves each wrap's difference on by one update (40_crc_engine R86). -/
theorem wrapDelta_add_one {mru n w : Nat} (h : w * mru ≤ n) :
    wrapDelta mru (n + 1) w = zeroUpdate (wrapDelta mru n w) := by
  induction w with
  | zero => rw [wrapDelta_zero, wrapDelta_zero, zeroUpdate_zero]
  | succ w ih =>
    have hw : w * mru ≤ n := Nat.le_trans (Nat.mul_le_mul_right _ (Nat.le_succ w)) h
    rw [wrapDelta_succ, wrapDelta_succ, ih hw, zeroUpdate_xor, ← Function.iterate_succ_apply' zeroUpdate,
      Nat.succ_eq_add_one, Nat.sub_add_comm h]

/-- A stored byte that does not wrap moves the difference on. -/
theorem overflowDelta_noWrap {mru n : Nat} (hd : (n + 1) / mru = n / mru) :
    overflowDelta mru (n + 1) = zeroUpdate (overflowDelta mru n) := by
  rw [overflowDelta_eq, hd, wrapDelta_add_one (Nat.div_mul_le_self n mru), overflowDelta_eq]

/-- A stored byte that wraps moves the difference on and adds the inversion. -/
theorem overflowDelta_wrap {mru n : Nat} (hd : (n + 1) / mru = n / mru + 1) (hm : (n + 1) % mru = 0) :
    overflowDelta mru (n + 1) = zeroUpdate (overflowDelta mru n) ^^^ WRAPXOR := by
  have hmul : (n / mru + 1) * mru = n + 1 := by
    rw [← hd]
    exact Nat.div_mul_cancel (Nat.dvd_of_mod_eq_zero hm)
  rw [overflowDelta_eq, hd, wrapDelta_succ, wrapDelta_add_one (Nat.div_mul_le_self n mru), overflowDelta_eq, hmul,
    Nat.sub_self, Function.iterate_zero, id]

/-- Counting one more byte: the remainder counts up, or reaches MRU and the quotient counts up. -/
theorem count_succ {mru n : Nat} (h : 1 ≤ mru) :
    n % mru + 1 ≠ mru ∧ (n + 1) % mru = n % mru + 1 ∧ (n + 1) / mru = n / mru ∨
    n % mru + 1 = mru ∧ (n + 1) % mru = 0 ∧ (n + 1) / mru = n / mru + 1 := by
  have hlt := Nat.mod_lt n h
  have hmod : (n + 1) % mru = (n % mru + 1) % mru := (Nat.mod_add_mod n mru 1).symm
  have hdiv : (n + 1) / mru = n / mru + (n % mru + 1) / mru := by
    conv_lhs => rw [← Nat.div_add_mod n mru, Nat.add_assoc, Nat.mul_add_div h]
  by_cases hw : n % mru + 1 = mru
  · rw [hmod, hdiv, hw, Nat.mod_self, Nat.div_self h]
    exact .inr ⟨rfl, rfl, rfl⟩
  · have hlt' : n % mru + 1 < mru := by omega
    rw [hmod, hdiv, Nat.mod_eq_of_lt hlt', Nat.div_eq_of_lt hlt']
    exact .inl ⟨hw, rfl, rfl⟩

/-- After a run of stored bytes the length is the run's modulo MRU and the CRC is off by the wraps' difference
(41_frame_receiver R109(b)). -/
theorem storeAll_of_fresh {rx : Receiver} (h : rx.Fresh) (hmru : 1 ≤ rx.mru) (bytes : List Byte) :
    (rx.storeAll bytes).length = bytes.length % rx.mru ∧
    (rx.storeAll bytes).crc = fold SEED bytes ^^^ overflowDelta rx.mru bytes.length := by
  induction bytes using List.reverseRecOn with
  | nil => simp [h.length, h.crc, overflowDelta_eq]
  | append_singleton bytes b ih =>
    obtain ⟨hlen, hcrc⟩ := ih
    rw [storeAll_append, storeAll_cons, storeAll_nil, fold_append, fold_cons, fold_nil, List.length_append,
      List.length_singleton]
    obtain ⟨hw, hmod, hdiv⟩ | ⟨hw, hmod, hdiv⟩ := count_succ (n := bytes.length) hmru
    · rw [store_noWrap b (by rwa [hlen, storeAll_mru]), overflowDelta_noWrap hdiv, hlen, hcrc, hmod, update_xor_left]
      exact ⟨rfl, rfl⟩
    · rw [store_wrap b (by rwa [hlen, storeAll_mru]), overflowDelta_wrap hdiv hmod, hcrc, hmod, update_xor_left,
        BitVec.xor_assoc]
      exact ⟨rfl, rfl⟩

/-- Settles O32: the run arrives as stored bytes (`wireEffect_stuffAll`), of which `storeAll_of_fresh` speaks. -/
theorem overflowLeavesDelta : Obligations.OverflowLeavesDelta := by
  intro s r rx B hget he hmru hlen hcrc hesc
  obtain ⟨t, hrun, hrx, hout⟩ := runOn_deliver_next (stuffAll B) hget he
  rw [wireEffect_stuffAll r B hesc] at hrx hout
  obtain ⟨hlength, hcrc'⟩ := storeAll_of_fresh ⟨hlen, hcrc, hesc⟩ hmru B
  exact ⟨t, _, hrun, hrx, hlength, hcrc', (storeAll_esc rx B).trans hesc, hout.trans (List.append_nil _)⟩

/-- A run from a fresh receiver and the FLAG that ends it: emitted exactly when at least MINLEN bytes follow the last
wrap and the CRC with the wraps' difference is good; reset in any case. -/
theorem wireEffect_run (r : Nat) {rx : Receiver} (h : rx.Fresh) (hmru : 1 ≤ rx.mru) (B : List Byte) :
    wireEffect r rx (stuffAll B ++ [FLAG]) = ((rx.storeAll B).restart,
      if 16 ≤ B.length % rx.mru ∧ fold SEED B ^^^ overflowDelta rx.mru B.length = GOOD then
        [.emission r (Receiver.payload r (rx.storeAll B))] else []) := by
  obtain ⟨hlen, hcrc⟩ := storeAll_of_fresh h hmru B
  rw [wireEffect_append, wireEffect_stuffAll r B h.esc, wireEffect_singleton,
    byteEffect_flag r ((storeAll_esc rx B).trans h.esc), List.nil_append]
  simp only [Receiver.accepts, hlen, hcrc]

end Sys2Proof.Machine
end

section
/-! Frames at the receiver (41_frame_receiver section 4): round trip, the frame without its opening FLAG, and what
becomes of runs that wrapped. -/

namespace Sys2Proof.Machine

open Config

/-- The bytes a frame carries: the payload and its FCS, low byte first (30_encoding R66). -/
def withFcs (p : List Byte) : List Byte :=
  p ++ [lowByte (fcs (fold SEED p)), highByte (fcs (fold SEED p))]

@[simp] theorem withFcs_length (p : List Byte) : (withFcs p).length = p.length + 2 := by simp [withFcs]

theorem fold_withFcs (p : List Byte) : fold SEED (withFcs p) = GOOD :=
  residualLaw p

theorem encodeFrame_eq_withFcs (p : List Byte) : encodeFrame p = FLAG :: (stuffAll (withFcs p) ++ [FLAG]) :=
  encodeFrame_eq p

/-- The difference matters to a good CRC exactly when it is not 0. -/
theorem good_xor_eq_good {d : Crc} : GOOD ^^^ d = GOOD ↔ d = 0 := by
  refine ⟨fun h => ?_, fun h => by simp [h]⟩
  simpa using congrArg (GOOD ^^^ ·) h

/-- The body of a frame that fits below MRU is emitted as its payload. -/
theorem wireEffect_frame (r : Nat) {rx : Receiver} (h : rx.Fresh) {p : List Byte} (hmin : 14 ≤ p.length)
    (hmax : p.length + 3 ≤ rx.mru) :
    wireEffect r rx (stuffAll (withFcs p) ++ [FLAG]) = ((rx.storeAll (withFcs p)).restart, [.emission r p]) := by
  have hlt : (withFcs p).length < rx.mru := by
    rw [withFcs_length]
    omega
  have hgood : fold SEED (withFcs p) ^^^ overflowDelta rx.mru (withFcs p).length = GOOD := by
    rw [fold_withFcs, good_xor_eq_good, overflowDelta_eq, Nat.div_eq_of_lt hlt, wrapDelta_zero]
  have hpayload : Receiver.payload r (rx.storeAll (withFcs p)) = p := by
    rw [payload_storeAll r _ h.length hlt, withFcs_length, Nat.add_sub_cancel, withFcs, List.take_left]
  have hlong : 16 ≤ (withFcs p).length % rx.mru := by
    rw [Nat.mod_eq_of_lt hlt, withFcs_length]
    omega
  rw [wireEffect_run r h (by omega), if_pos ⟨hlong, hgood⟩, hpayload]

/-- A whole frame: what the opening FLAG does, then the body on a receiver that is fresh. -/
theorem wireEffect_encodeFrame (r : Nat) (rx : Receiver) (p : List Byte) :
    wireEffect r rx (encodeFrame p) =
      ((wireEffect r rx.restart (stuffAll (withFcs p) ++ [FLAG])).1,
        (byteEffect r rx FLAG).2 ++ (wireEffect r rx.restart (stuffAll (withFcs p) ++ [FLAG])).2) := by
  rw [encodeFrame_eq_withFcs, wireEffect, byteEffect_flag_fst]

/-- Settles O30: the opening FLAG leaves a fresh receiver, and `wireEffect_frame` is what the rest does to one. -/
theorem roundTrip : Obligations.RoundTrip := by
  intro s r rx p hget he hmin hmax
  obtain ⟨u, hu, -, houtu⟩ := runOn_deliver_next [FLAG] hget he
  obtain ⟨t, ht, hrx, houtt⟩ := runOn_deliver_next (encodeFrame p) hget he
  rw [wireEffect_singleton] at houtu
  rw [wireEffect_encodeFrame, wireEffect_frame r rx.restart_fresh hmin hmax] at hrx houtt
  refine ⟨u, t, _, hu, ht, ?_, fun hempty => ?_, hrx, rfl, rfl, rfl, storeAll_mru _ _⟩
  · rw [houtt, houtu, List.append_assoc]
  · rw [houtu, byteEffect_flag_snd_of_empty r hempty, List.append_nil]

/-- Settles O31: a receiver right after creation is fresh. -/
theorem freshReceiverNeedsNoOpeningFlag : Obligations.FreshReceiverNeedsNoOpeningFlag := by
  intro s r mru p hget hmin hmax
  rw [encodeFrame_eq_withFcs, List.tail_cons]
  obtain ⟨t, ht, -, hout⟩ := runOn_deliver_next (stuffAll (withFcs p) ++ [FLAG]) hget rfl
  rw [wireEffect_frame r (Receiver.create_fresh mru) hmin hmax] at hout
  exact ⟨t, ht, hout⟩

/-- A run delivered to a fresh receiver and the FLAG that ends it, as a run of the machine. -/
theorem runOn_run {s : State} {r : Nat} {rx : Receiver} (hget : s.rxs.get? r = some rx) (he : rx.emitting = false)
    (h : rx.Fresh) (hmru : 1 ≤ rx.mru) (B : List Byte) :
    ∃ t, s.runOn (deliver r (stuffAll B ++ [FLAG])) = .next t ∧
      t.outputs = s.outputs ++
        if 16 ≤ B.length % rx.mru ∧ fold SEED B ^^^ overflowDelta rx.mru B.length = GOOD then
          [.emission r (Receiver.payload r (rx.storeAll B))] else [] := by
  obtain ⟨t, ht, -, hout⟩ := runOn_deliver_next (stuffAll B ++ [FLAG]) hget he
  rw [wireEffect_run r h hmru] at hout
  exact ⟨t, ht, hout⟩

/-- Settles O33: `runOn_run` is the emission test with the difference, which a good CRC passes only where it is 0. -/
theorem overlongFrameEmission : Obligations.OverlongFrameEmission := by
  intro s r rx B hget he hmru hlen hcrc hesc _
  obtain ⟨t, ht, hout⟩ := runOn_run hget he ⟨hlen, hcrc, hesc⟩ hmru B
  refine ⟨t, ht, fun hshort => ?_, fun hgood => ?_⟩
  · rw [hout, if_neg fun hc => absurd hc.1 (Nat.not_le_of_lt hshort), List.append_nil]
  · have hiff : 16 ≤ B.length % rx.mru ∧ fold SEED B ^^^ overflowDelta rx.mru B.length = GOOD ↔
        overflowDelta rx.mru B.length = 0 ∧ 16 ≤ B.length % rx.mru := by rw [hgood, good_xor_eq_good, and_comm]
    rw [hout, ← hiff]
    split
    · exact iff_of_true (by simp) ‹_›
    · exact iff_of_false (by simp) ‹_›

theorem iterate_zeroUpdate_ne_zero (n : Nat) {d : Crc} (h : d ≠ 0) : zeroUpdate^[n] d ≠ 0 := by
  intro hz
  refine h (zeroUpdate_injective.iterate n (hz.trans ?_))
  exact (Function.iterate_fixed zeroUpdate_zero n).symm

/-- One wrap always leaves a difference: no update makes the inversion 0. -/
theorem overflowDelta_one_wrap {mru n : Nat} (h1 : mru ≤ n) (h2 : n < 2 * mru) : overflowDelta mru n ≠ 0 := by
  have hdiv : n / mru = 1 := Nat.div_eq_of_lt_le (by omega) (by omega)
  rw [overflowDelta_eq, hdiv, wrapDelta_succ, wrapDelta_zero, crc_zero_xor]
  exact iterate_zeroUpdate_ne_zero _ (by decide)

/-- Settles O34: a frame's own CRC is good, so the one wrap's difference makes the emission test fail. -/
theorem overlongSentFrameDropped : Obligations.OverlongSentFrameDropped := by
  intro s r rx p hget he hmin hmax
  obtain ⟨u, hu, -, houtu⟩ := runOn_deliver_next [FLAG] hget he
  obtain ⟨t, ht, hrx, houtt⟩ := runOn_deliver_next (encodeFrame p) hget he
  have hbad : ¬ (16 ≤ (withFcs p).length % rx.restart.mru ∧
      fold SEED (withFcs p) ^^^ overflowDelta rx.restart.mru (withFcs p).length = GOOD) := by
    rw [fold_withFcs, good_xor_eq_good, withFcs_length]
    exact fun hc => overflowDelta_one_wrap hmin hmax hc.2
  rw [wireEffect_encodeFrame, wireEffect_run r rx.restart_fresh (by rw [restart_mru]; omega), if_neg hbad,
    List.append_nil] at hrx houtt
  rw [wireEffect_singleton] at houtu
  exact ⟨u, t, _, hu, ht, houtt.trans houtu.symm, hrx, rfl, rfl, rfl⟩

end Sys2Proof.Machine
end

section
/-! The order of the bit-serial step (41_frame_receiver R109(c)): a linear operator on 16 bits is its 16 columns,
squaring the columns reaches high powers, and the overflow inversion comes back to itself after 32767 steps and not
before. -/

namespace Sys2Proof.Machine

open Config

/-- A linear operator, given by its values on the single bits from bit 0 on. -/
def applyColumns : List Crc → Crc → Crc
  | [], _ => 0
  | x :: xs, c => (if c.getLsbD 0 then x else 0) ^^^ applyColumns xs (c >>> 1)

/-- The columns of the identity. -/
def unitColumns : List Crc :=
  (List.range' 0 16).map (1 <<< ·)

/-- The columns of `2 ^ k` bit-serial steps, by repeated squaring. -/
def powColumns : Nat → List Crc
  | 0 => unitColumns.map (serialShift 1)
  | k + 1 => (powColumns k).map (applyColumns (powColumns k))

/-- Mapping an additive operator over the columns composes it with the operator they give. -/
theorem applyColumns_map {g : Crc → Crc} (h0 : g 0 = 0) (hadd : ∀ c d, g (c ^^^ d) = g c ^^^ g d) (cols : List Crc)
    (c : Crc) : applyColumns (cols.map g) c = g (applyColumns cols c) := by
  induction cols generalizing c with
  | nil => exact h0.symm
  | cons x xs ih =>
    rw [List.map_cons, applyColumns, applyColumns, hadd, ih]
    split
    · rfl
    · rw [h0]

/-- Bit `k` and the bits above it, each at its place. -/
theorem shiftLeft_ushiftRight_split (c : Crc) {k : Nat} (hk : k < 16) :
    (if (c >>> k).getLsbD 0 then (1 : Crc) <<< k else 0) ^^^ (c >>> (k + 1)) <<< (k + 1) = (c >>> k) <<< k := by
  refine BitVec.eq_of_getLsbD_eq fun i hi => ?_
  obtain hlt | rfl | hgt := Nat.lt_trichotomy i k
  · split <;> simp [hlt, Nat.lt_succ_of_lt hlt]
  · split <;> simp_all
  · have hsub : ¬ i - k = 0 := by omega
    split <;> simp [hi, hsub, Nat.not_lt_of_gt hgt, Nat.not_lt.2 hgt, Nat.add_sub_cancel' hgt,
      Nat.add_sub_cancel' (Nat.le_of_lt hgt)]

/-- The single bits from bit `k` on give back what they are applied to, `k` places up. -/
theorem applyColumns_units (n k : Nat) (h : k + n = 16) (c : Crc) :
    applyColumns ((List.range' k n).map (1 <<< ·)) (c >>> k) = (c >>> k) <<< k := by
  induction n generalizing k with
  | zero =>
    obtain rfl : k = 16 := h
    rw [BitVec.ushiftRight_eq_zero (Nat.le_refl 16), BitVec.zero_shiftLeft]
    rfl
  | succ n ih =>
    rw [List.range'_succ, List.map_cons, applyColumns, ← BitVec.shiftRight_add, ih (k + 1) (by omega)]
    exact shiftLeft_ushiftRight_split c (by omega)

theorem applyColumns_unitColumns (c : Crc) : applyColumns unitColumns c = c := by
  simpa [unitColumns] using applyColumns_units 16 0 rfl c

theorem serialShift_eq_iterate (n : Nat) : serialShift n = (serialShift 1)^[n] := by
  funext c
  induction n generalizing c with
  | zero => rfl
  | succ n ih => rw [serialShift_succ, ih, Function.iterate_succ_apply]

theorem serialShift_zero (n : Nat) : serialShift n 0 = 0 := by
  rw [serialShift_eq_iterate]
  exact Function.iterate_fixed rfl n

/-- Steps add up. -/
theorem serialShift_add (m n : Nat) (c : Crc) : serialShift (m + n) c = serialShift m (serialShift n c) := by
  rw [serialShift_eq_iterate, serialShift_eq_iterate m, serialShift_eq_iterate n, Function.iterate_add_apply]

/-- Squared `k` times, the columns give `2 ^ k` steps. -/
theorem applyColumns_powColumns (k : Nat) (c : Crc) : applyColumns (powColumns k) c = serialShift (2 ^ k) c := by
  induction k generalizing c with
  | zero => rw [powColumns, applyColumns_map rfl (serialShift_xor 1), applyColumns_unitColumns, pow_zero]
  | succ k ih =>
    have hfun : applyColumns (powColumns k) = serialShift (2 ^ k) := funext ih
    rw [powColumns, hfun, applyColumns_map (serialShift_zero _) (serialShift_xor _), ih, ← serialShift_add, pow_succ,
      mul_two]

/-- Powers of two of steps applied to the overflow inversion one after the other. -/
def wrapPower (ks : List Nat) : Crc :=
  ks.foldr (fun k c => applyColumns (powColumns k) c) WRAPXOR

theorem wrapPower_eq (ks : List Nat) : wrapPower ks = serialShift (ks.map (2 ^ ·)).sum WRAPXOR := by
  induction ks with
  | nil => rfl
  | cons k ks ih =>
    show applyColumns (powColumns k) (wrapPower ks) = _
    rw [applyColumns_powColumns, ih, List.map_cons, List.sum_cons, serialShift_add]

set_option maxRecDepth 4000 in
/-- After 32768 steps the inversion is where one step takes it. -/
theorem wrapPower_32768 : wrapPower [15] = serialShift 1 WRAPXOR := by decide

set_option maxRecDepth 4000 in
/-- After 4681 = 32767 / 7 steps the inversion is elsewhere. -/
theorem wrapPower_4681 : wrapPower [12, 9, 6, 3, 0] ≠ WRAPXOR := by decide

set_option maxRecDepth 4000 in
/-- After 1057 = 32767 / 31 steps the inversion is elsewhere. -/
theorem wrapPower_1057 : wrapPower [10, 5, 0] ≠ WRAPXOR := by decide

set_option maxRecDepth 4000 in
/-- After 217 = 32767 / 151 steps the inversion is elsewhere. -/
theorem wrapPower_217 : wrapPower [7, 6, 4, 3, 0] ≠ WRAPXOR := by decide

/-- The overflow inversion comes back after 32767 bit-serial steps. -/
theorem isPeriodicPt_wrapXor : Function.IsPeriodicPt (serialShift 1) 32767 WRAPXOR := by
  refine serialShift_one_injective ?_
  rw [← Function.iterate_succ_apply' (serialShift 1), ← serialShift_eq_iterate]
  exact (wrapPower_eq [15]).symm.trans wrapPower_32768

/-- A divisor of 32767 = 7 * 31 * 151 is 32767 or divides one of the three cofactors. -/
theorem dvd_32767_cases {g : Nat} (h : g ∣ 32767) : g = 32767 ∨ g ∣ 4681 ∨ g ∣ 1057 ∨ g ∣ 217 := by
  obtain ⟨m, hm⟩ := h
  by_cases h1 : m = 1
  · exact .inl (by rw [hm, h1, mul_one])
  obtain ⟨q, hq, m, rfl⟩ := Nat.exists_prime_and_dvd h1
  rw [Nat.mul_left_comm] at hm
  have hdvd : q ∣ 7 * (31 * 151) := ⟨g * m, hm⟩
  rw [hq.dvd_mul, hq.dvd_mul, Nat.prime_dvd_prime_iff_eq hq (by norm_num),
    Nat.prime_dvd_prime_iff_eq hq (by norm_num), Nat.prime_dvd_prime_iff_eq hq (by norm_num)] at hdvd
  obtain rfl | rfl | rfl := hdvd
  · exact .inr (.inl ⟨m, by omega⟩)
  · exact .inr (.inr (.inl ⟨m, by omega⟩))
  · exact .inr (.inr (.inr ⟨m, by omega⟩))

/-- No smaller number of steps brings it back. -/
theorem dvd_of_isPeriodicPt_wrapXor {n : Nat} (h : Function.IsPeriodicPt (serialShift 1) n WRAPXOR) : 32767 ∣ n := by
  have hgcd := h.gcd isPeriodicPt_wrapXor
  have multiple {m : Nat} (hm : n.gcd 32767 ∣ m) : serialShift m WRAPXOR = WRAPXOR := by
    rw [serialShift_eq_iterate]
    exact hgcd.trans_dvd hm
  obtain hg | hg | hg | hg := dvd_32767_cases (Nat.gcd_dvd_right n 32767)
  · exact Nat.gcd_eq_right_iff_dvd.1 hg
  · exact absurd ((wrapPower_eq [12, 9, 6, 3, 0]).trans (multiple hg)) wrapPower_4681
  · exact absurd ((wrapPower_eq [10, 5, 0]).trans (multiple hg)) wrapPower_1057
  · exact absurd ((wrapPower_eq [7, 6, 4, 3, 0]).trans (multiple hg)) wrapPower_217

end Sys2Proof.Machine
end

section
/-! Over-long runs at MRU 64 (41_frame_receiver R109(c), R109(d)): below 32767 wraps a genuine run is never emitted,
and a crafted one of 80 bytes is. -/

namespace Sys2Proof.Machine

open Config

theorem zeroUpdate_eq_iterate : zeroUpdate = (serialShift 1)^[8] := by
  rw [← serialShift_eq_iterate]
  exact funext zeroUpdate_eq

/-- One more wrap, MRU bytes later: the earlier wraps' differences, and the first one's. -/
theorem wrapDelta_add_mru (mru n w : Nat) :
    wrapDelta mru (n + mru) (w + 1) = wrapDelta mru n w ^^^ zeroUpdate^[n] WRAPXOR := by
  induction w with
  | zero => rw [wrapDelta_succ, wrapDelta_zero, wrapDelta_zero, Nat.zero_add, Nat.one_mul, Nat.add_sub_cancel]
  | succ w ih =>
    have hexp : n + mru - (w + 1 + 1) * mru = n - (w + 1) * mru := by
      rw [Nat.add_one_mul (w + 1), Nat.add_sub_add_right]
    rw [wrapDelta_succ, ih, wrapDelta_succ _ n, hexp, BitVec.xor_assoc, BitVec.xor_assoc, BitVec.xor_comm (_^[n] _)]

theorem wrapDelta_add {mru n w : Nat} (h : w * mru ≤ n) (k : Nat) :
    wrapDelta mru (n + k) w = zeroUpdate^[k] (wrapDelta mru n w) := by
  induction k with
  | zero => rfl
  | succ k ih =>
    rw [← Nat.add_assoc, wrapDelta_add_one (Nat.le_add_right_of_le h), ih, Function.iterate_succ_apply']

/-- Where the wraps' differences cancel, the inversion comes back to itself over the bytes between first and last wrap:
the sum telescopes. -/
theorem isPeriodicPt_of_wrapDelta_eq_zero {mru n w : Nat} (h : w * mru ≤ n) (h0 : wrapDelta mru n w = 0) :
    Function.IsPeriodicPt zeroUpdate (w * mru) WRAPXOR := by
  have hshift := wrapDelta_add_mru mru n w
  have hsplit : n = (n - w * mru) + w * mru := by omega
  have hexp : n + mru - (w + 1) * mru = n - w * mru := by rw [Nat.add_one_mul, Nat.add_sub_add_right]
  rw [wrapDelta_succ, wrapDelta_add h, h0, Function.iterate_fixed zeroUpdate_zero, crc_zero_xor, crc_zero_xor, hexp]
    at hshift
  refine zeroUpdate_injective.iterate (n - w * mru) ?_
  rw [← Function.iterate_add_apply, ← hsplit, ← hshift]

/-- At MRU 64 the differences cancel only after a multiple of 32767 wraps. -/
theorem dvd_of_overflowDelta_eq_zero {n : Nat} (h : overflowDelta 64 n = 0) : 32767 ∣ n / 64 := by
  have hper := isPeriodicPt_of_wrapDelta_eq_zero (Nat.div_mul_le_self n 64) h
  rw [Function.IsPeriodicPt, zeroUpdate_eq_iterate, ← Function.iterate_mul] at hper
  have hdvd := dvd_of_isPeriodicPt_wrapXor hper
  rw [Nat.mul_comm (n / 64), ← Nat.mul_assoc] at hdvd
  exact Nat.Coprime.dvd_of_dvd_mul_left (by decide) hdvd

/-- Settles O35: with fewer than 32767 wraps the difference is not 0; with exactly 32767, below 2,097,104 bytes, fewer
than MINLEN bytes follow the last one. -/
theorem genuineOverlongDroppedAtDefaultMru : Obligations.GenuineOverlongDroppedAtDefaultMru := by
  intro s r rx B hget he hmru hlen hcrc hesc hmin hmax hgood
  obtain ⟨t, ht, hout⟩ := runOn_run hget he ⟨hlen, hcrc, hesc⟩ (by omega) B
  have hbad : ¬ (16 ≤ B.length % rx.mru ∧ fold SEED B ^^^ overflowDelta rx.mru B.length = GOOD) := by
    rw [hgood, good_xor_eq_good, hmru]
    rintro ⟨hlong, hzero⟩
    have hle := Nat.le_of_dvd (by omega) (dvd_of_overflowDelta_eq_zero hzero)
    omega
  rw [if_neg hbad, List.append_nil] at hout
  exact ⟨t, ht, hout⟩

/-- A run of 80 bytes at MRU 64: 78 zero bytes and two bytes that make the receiver's inverted CRC good. -/
def craftedRun : List Byte :=
  List.replicate 78 0x00 ++ [0xF9, 0x39]

/-- Folding a zero byte is eight bit-serial steps. -/
theorem fold_zeros (n : Nat) (c : Crc) : fold c (List.replicate n 0x00) = serialShift (8 * n) c := by
  induction n generalizing c with
  | zero => rfl
  | succ n ih => rw [List.replicate_succ, fold_cons, ih, ← zeroUpdate, zeroUpdate_eq, ← serialShift_add, Nat.mul_succ]

set_option maxRecDepth 4000 in
/-- The seed, which is the inversion's value, after 624 = 8 * 78 steps. -/
theorem wrapPower_624 : wrapPower [9, 6, 5, 4] = 0x9093 := by decide

/-- The crafted run's CRC with the one wrap's difference is good. -/
theorem fold_craftedRun : fold SEED craftedRun ^^^ overflowDelta 64 craftedRun.length = GOOD := by
  have hzeros : fold SEED (List.replicate 78 0x00) = 0x9093 :=
    (fold_zeros 78 SEED).trans ((wrapPower_eq [9, 6, 5, 4]).symm.trans wrapPower_624)
  rw [craftedRun, fold_append, hzeros]
  decide

theorem stuffAll_of_literal {bytes : List Byte} (h : ∀ b ∈ bytes, b ≠ ESC ∧ b ≠ FLAG) : stuffAll bytes = bytes := by
  induction bytes with
  | nil => rfl
  | cons b bytes ih =>
    obtain ⟨hesc, hflag⟩ := h b List.mem_cons_self
    rw [stuffAll_cons, stuff_literal hesc hflag, ih fun c hc => h c (List.mem_cons_of_mem _ hc)]
    rfl

theorem craftedRun_literal : ∀ b ∈ craftedRun, b ≠ ESC ∧ b ≠ FLAG := by decide

/-- Settles O36: `craftedRun` passes the emission test at the FLAG after it. -/
theorem craftedOverlongRunEmits : Obligations.CraftedOverlongRunEmits := by
  obtain ⟨t, ht, hout⟩ :=
    runOn_run (s := State.reset) (r := 0) rfl rfl (Receiver.create_fresh 64) (by decide) craftedRun
  rw [if_pos ⟨by decide, fold_craftedRun⟩] at hout
  rw [stuffAll_of_literal craftedRun_literal] at ht
  exact ⟨craftedRun, by decide, fun h => (craftedRun_literal _ h).2 rfl, fun h => (craftedRun_literal _ h).1 rfl,
    t, _, ht, hout⟩

end Sys2Proof.Machine
end

section
/-! The effect of an input (60_exceptions R162): which receiver or transmitter it changes and how, what it adds and
what it shows. A step completes exactly when its input keeps the duties, and is then that effect; the frame statements
and the commutation of inputs are read off it. -/

namespace Sys2Proof.Machine

open Config

/-- Entry `k` of a list changed, if a `k` is given, and new entries added at the end. -/
def actOn {α : Type} (k : Option Nat) (f : α → α) (new l : List α) : List α :=
  k.elim l (l.modify · f) ++ new

section ActOn

variable {α : Type} {f g : α → α} {new new' l : List α} {i j : Option Nat}

/-- An entry that exists is changed if it is the one acted on, and stays otherwise. -/
theorem actOn_getElem? {k : Nat} {x : α} (h : l[k]? = some x) :
    (actOn i f new l)[k]? = some (if i = some k then f x else x) := by
  obtain ⟨hlt, -⟩ := List.getElem?_eq_some_iff.1 h
  cases i with
  | none => simp [actOn, List.getElem?_append_left hlt, h]
  | some r =>
    have hlt' : k < (l.modify r f).length := by rwa [List.length_modify]
    simp only [actOn, Option.elim, List.getElem?_append_left hlt', List.getElem?_modify, h, Option.some.injEq]
    split <;> rfl

/-- What holds of every entry holds after the action if the change keeps it and the new entries have it. -/
theorem actOn_forall {P : α → Prop} (hl : ∀ x ∈ l, P x) (hnew : ∀ x ∈ new, P x)
    (hf : ∀ k x, i = some k → l[k]? = some x → P x → P (f x)) : ∀ x ∈ actOn i f new l, P x := by
  intro x hx
  rw [actOn, List.mem_append] at hx
  obtain hx | hx := hx
  · cases i with
    | none => exact hl x hx
    | some k =>
      obtain ⟨m, hm⟩ := List.mem_iff_getElem?.1 hx
      rw [Option.elim, List.getElem?_modify, Option.map_eq_map, Option.map_eq_some_iff] at hm
      obtain ⟨y, hy, rfl⟩ := hm
      have hPy := hl y (List.mem_of_getElem? hy)
      split
      · subst m
        exact hf k y rfl hy hPy
      · exact hPy
  · exact hnew x hx

theorem modify_append_left {k : Nat} (h : k < l.length) : (l ++ new).modify k f = l.modify k f ++ new := by
  refine List.ext_getElem? fun m => ?_
  rw [List.getElem?_modify]
  by_cases hm : m < l.length
  · rw [List.getElem?_append_left hm, List.getElem?_append_left (by rwa [List.length_modify]), List.getElem?_modify]
  · have hle := Nat.le_of_not_lt hm
    rw [List.getElem?_append_right hle, List.getElem?_append_right (by rwa [List.length_modify]), List.length_modify]
    simp [show ¬ k = m by omega]

/-- Actions on different entries commute, where their new entries may come in either order. -/
theorem actOn_comm (hi : ∀ k, i = some k → k < l.length) (hj : ∀ k, j = some k → k < l.length)
    (hne : ∀ k, i = some k → j ≠ some k) (hnew : new ++ new' = new' ++ new) :
    actOn j g new' (actOn i f new l) = actOn i f new (actOn j g new' l) := by
  cases i with
  | none =>
    cases j with
    | none => simp [actOn, hnew]
    | some m => simp [actOn, modify_append_left (hj m rfl), hnew]
  | some k =>
    cases j with
    | none => simp [actOn, modify_append_left (hi k rfl), hnew]
    | some m =>
      have hkm : k ≠ m := fun h => hne k rfl (congrArg some h.symm)
      simp [actOn, modify_append_left (new := new) (l := l.modify k f) (by simpa using hj m rfl),
        modify_append_left (new := new') (l := l.modify m g) (by simpa using hi k rfl), hnew,
        List.modify_modify_ne f g l hkm]

/-- Writing the selected entry of a pool is a change of that entry. -/
theorem Pool.toList_setCur {p q : Pool α} {k : Nat} (h : p.select k = some q) :
    Pool.toList { q with cur := f q.cur } = actOn (some k) f [] p.toList := by
  obtain ⟨hlist, rfl, -⟩ := Pool.select_some h
  rw [actOn, List.append_nil, Option.elim, ← hlist]
  simp [Pool.toList, Pool.here, List.modify_eq_take_cons_drop]

end ActOn

/-- A transmitter that has accepted a payload and offered the opening FLAG (42_frame_transmitter R130). -/
def Transmitter.accepted (p : List Byte) : Transmitter :=
  { busy := true, crc := SEED, pending := encodeFrame p, stage := .payload, left := p, second := none }

/-- The receiver after RX.ON_BYTE with either consumer: an emission the consumer stays in holds the registers. -/
def byteChange (r : Nat) (rx : Receiver) (v : Byte) (turn : ConsumerTurn) : Receiver :=
  if turn = .staysInCall ∧ rx.accepts ∧ rxClass rx.esc v = .flag then { rx with emitting := true }
  else (byteEffect r rx v).1

/-- How an input changes the receiver it acts on. -/
def Input.rxChange : Input → Receiver → Receiver
  | .rxByte r v turn => fun rx => byteChange r rx v turn
  | .consumerReturns _ => fun rx => { rx.restart with emitting := false }
  | _ => id

/-- How an input changes the transmitter it acts on. -/
def Input.txChange : Input → Transmitter → Transmitter
  | .sendFrame _ p => fun _ => Transmitter.accepted p
  | .answer k .ok => fun tx => (okEffect k tx).1
  | .answer _ .ioError => fun _ => Transmitter.idle
  | _ => id

/-- The receivers an input creates. -/
def Input.newRxs : Input → List Receiver
  | .newReceiver mru => [Receiver.create mru]
  | _ => []

/-- The transmitters an input creates. -/
def Input.newTxs : Input → List Transmitter
  | .newTransmitter => [Transmitter.idle]
  | _ => []

/-- What an input shows. -/
def Input.shows (e : Input) (s : State) : List Output :=
  match e with
  | .rxByte r v _ => (s.rxs.get? r).elim [] fun rx => (byteEffect r rx v).2
  | .sendFrame k _ => [.write k FLAG]
  | .answer k .ok => (s.txs.get? k).elim [] fun tx => (okEffect k tx).2
  | .answer k .ioError => [.result k .transportFailure]
  | .crcUpdate c b => [.crc (update c b)]
  | _ => []

/-- The state after an input: its changes, its creations, and what it shows. -/
structure StepEffect (s : State) (e : Input) (t : State) : Prop where
  rxs : t.rxs.toList = actOn e.receiver? e.rxChange e.newRxs s.rxs.toList
  txs : t.txs.toList = actOn e.transmitter? e.txChange e.newTxs s.txs.toList
  outputs : t.outputs = s.outputs ++ e.shows s

/-- RX.ON_BYTE on a receiver in no emission, with either consumer: the receiver is `byteChange`, what is shown does not
depend on the consumer. -/
theorem execRxOnByte_free {s : State} {v : Byte} (he : s.rx.emitting = false) :
    execRxOnByte v s = .next
      { s with
        rxs := { s.rxs with cur := byteChange s.rxs.here s.rx v s.consumer }
        outputs := s.outputs ++ (byteEffect s.rxs.here s.rx v).2 } := by
  unfold byteChange
  split
  next hheld =>
    obtain ⟨hc, ha, hk⟩ := hheld
    obtain ⟨hesc, rfl⟩ := rxClass_eq_flag.1 hk
    rw [byteEffect_flag _ hesc, if_pos ha]
    exact (exec_rxOnByte_of_rxClass .flag he hk).trans (exec_rxFlag_of_staysInCall ha hc)
  next hfree =>
    obtain ⟨t, ht⟩ := exec_rxClass_completes (rxClass s.rx.esc v) s
    have hnext : execRxOnByte v s = .next t := (exec_rxOnByte_of_rxClass _ he rfl).trans ht
    obtain ⟨-, rfl | ⟨hc, ha, hesc, hv, -⟩⟩ := execRxOnByte_next hnext
    · exact hnext
    · exact absurd ⟨hc, ha, rxClass_eq_flag.2 ⟨hesc, hv⟩⟩ hfree

/-- TX.SEND_FRAME on an idle transmitter: accepted, and the opening FLAG offered. -/
theorem execTxSendFrame_of_idle {s : State} (p : List Byte) (hb : s.tx.busy = false) :
    execTxSendFrame p s = .next ((s.setTx (Transmitter.accepted p)).offer FLAG) :=
  if_neg (by simp [hb])

/-- A test that holds of entry `k`: the entry exists and it holds there. -/
theorem Pool.get?_any {α : Type} {p : Pool α} {k : Nat} {f : α → Bool} :
    (p.get? k).any f = true ↔ ∃ x, p.get? k = some x ∧ f x = true := by
  cases p.get? k <;> simp

/-- A CRC.UPDATE input is that instruction. -/
theorem step_crcUpdate {s : State} {c : Crc} {b : Byte} {rest : List Input} (h : s.inputs = .crcUpdate c b :: rest) :
    step s = exec (.crcUpdate c b) { s with inputs := rest } := by
  simp [step, fetch_cons h, fetchInput]

/-- A connection with a legal MRU adds a receiver as created (70_reset_and_hazards R170). -/
theorem step_newReceiver {s : State} {mru : Nat} {rest : List Input} (h : s.inputs = .newReceiver mru :: rest)
    (hmru : 1 ≤ mru) : step s = .next { s with inputs := rest, rxs := s.rxs.add (Receiver.create mru) } := by
  simp [step, fetch_cons h, fetchInput, Nat.ne_of_gt hmru]

theorem Pool.lt_of_get?_any {α : Type} {p : Pool α} {k : Nat} {f : α → Bool} (h : (p.get? k).any f = true) :
    k < p.toList.length := by
  obtain ⟨x, hx, -⟩ := Pool.get?_any.1 h
  exact (List.getElem?_eq_some_iff.1 hx).1

/-- A step whose input keeps the duties completes, consumes the input, and is its effect. -/
theorem step_of_dutyKept {s : State} {e : Input} {rest : List Input} (h : s.inputs = e :: rest)
    (hd : dutyKept s e = true) : ∃ t, step s = .next t ∧ t.inputs = rest ∧ StepEffect s e t := by
  cases e with
  | rxByte r v turn =>
    obtain ⟨rx, hget, he⟩ := Pool.get?_any.1 hd
    obtain ⟨q, hq, rfl, -, rfl⟩ := Pool.select_of_get? hget
    have he' : q.cur.emitting = false := by simpa using he
    refine ⟨_, (step_rxByte h hq).trans (execRxOnByte_free he'), rfl,
      Pool.toList_setCur (f := fun rx => byteChange q.here rx v turn) hq, (List.append_nil _).symm, ?_⟩
    simp [Input.shows, hget, State.rx]
  | rxOverlap r v => cases hd
  | consumerByte r v => cases hd
  | consumerReturns r =>
    obtain ⟨rx, hget, he⟩ := Pool.get?_any.1 hd
    obtain ⟨q, hq, rfl, -⟩ := Pool.select_of_get? hget
    exact ⟨_, step_consumerReturns h hq he, rfl,
      Pool.toList_setCur (f := fun rx => { rx.restart with emitting := false }) hq, (List.append_nil _).symm,
      (List.append_nil _).symm⟩
  | sendFrame k p =>
    obtain ⟨tx, hget, hb⟩ := Pool.get?_any.1 hd
    obtain ⟨q, hq, rfl, -, rfl⟩ := Pool.select_of_get? hget
    have hb' : q.cur.busy = false := by simpa using hb
    exact ⟨_, (step_sendFrame h hq).trans (execTxSendFrame_of_idle p hb'), rfl, (List.append_nil _).symm,
      Pool.toList_setCur (f := fun _ => Transmitter.accepted p) hq, rfl⟩
  | answer k a =>
    obtain ⟨tx, hget, hb⟩ := Pool.get?_any.1 hd
    obtain ⟨q, hq, rfl, -⟩ := Pool.select_of_get? hget
    cases a with
    | ok =>
      refine ⟨_, step_answerOk h hq hb, rfl, (List.append_nil _).symm,
        Pool.toList_setCur (f := fun tx => (okEffect k tx).1) hq, ?_⟩
      simp [Input.shows, hget]
    | ioError =>
      exact ⟨_, step_answerError h hq hb, rfl, (List.append_nil _).symm,
        Pool.toList_setCur (f := fun _ => Transmitter.idle) hq, rfl⟩
  | foreignWrite k x =>
    obtain ⟨tx, hget, hb⟩ := Pool.get?_any.1 hd
    obtain ⟨q, hq, rfl, -⟩ := Pool.select_of_get? hget
    refine ⟨{ s with inputs := rest, txs := q }, ?_, rfl, (List.append_nil _).symm, Pool.toList_setCur (f := id) hq,
      (List.append_nil _).symm⟩
    simp only [Bool.not_eq_true'] at hb
    simp [step, fetch_cons h, fetchInput, withTransmitter, hq, State.tx, hb]
  | crcUpdate c b =>
    refine ⟨{ s with inputs := rest, outputs := s.outputs ++ [.crc (update c b)] }, ?_, rfl, (List.append_nil _).symm,
      (List.append_nil _).symm, rfl⟩
    exact step_crcUpdate h
  | newReceiver mru =>
    have hmru : 1 ≤ mru := of_decide_eq_true hd
    refine ⟨{ s with inputs := rest, rxs := s.rxs.add (Receiver.create mru) }, ?_, rfl, Pool.add_toList _ _,
      (List.append_nil _).symm, (List.append_nil _).symm⟩
    exact step_newReceiver h hmru
  | newTransmitter =>
    refine ⟨{ s with inputs := rest, txs := s.txs.add Transmitter.idle }, ?_, rfl, (List.append_nil _).symm,
      Pool.add_toList _ _, (List.append_nil _).symm⟩
    simp [step, fetch_cons h, fetchInput]

/-- An input whose step completes keeps the duties. -/
theorem dutyKept_of_step {s t : State} {e : Input} {rest : List Input} (hin : s.inputs = e :: rest)
    (h : step s = .next t) : dutyKept s e = true := by
  obtain ⟨hnil, -⟩ | ⟨e', rest', hin', hcase⟩ := step_next_cases h
  · cases hin.symm.trans hnil
  obtain ⟨rfl, rfl⟩ : e = e' ∧ rest = rest' := by simpa using hin.symm.trans hin'
  have here {α : Type} {p q : Pool α} {k : Nat} {f : α → Bool} (hq : p.select k = some q) (hf : f q.cur = true) :
      (p.get? k).any f = true := Pool.get?_any.2 ⟨_, (Pool.select_some hq).2.2, hf⟩
  cases e with
  | rxByte r v turn =>
    obtain ⟨q, hq, hexec⟩ := hcase
    obtain ⟨he, -⟩ := execRxOnByte_next hexec
    exact here hq (by simpa [State.rx] using he)
  | rxOverlap | consumerByte => exact hcase.elim
  | consumerReturns r =>
    obtain ⟨q, hq, he, -⟩ := hcase
    exact here hq he
  | sendFrame k p =>
    obtain ⟨q, hq, hexec⟩ := hcase
    refine here hq ?_
    cases hb : q.cur.busy with
    | false => rfl
    | true =>
      rw [execTxSendFrame_of_busy (s := { s with inputs := rest, txs := q }) p hb] at hexec
      cases hexec
  | answer k a => cases a <;> obtain ⟨q, hq, hb, -⟩ := hcase <;> exact here hq hb
  | foreignWrite k x =>
    obtain ⟨q, hq, hb, -⟩ := hcase
    exact here hq (by simp [hb])
  | crcUpdate | newTransmitter => rfl
  | newReceiver mru => exact decide_eq_true hcase.1

/-- Settles O47: `step_of_dutyKept` and `dutyKept_of_step`. -/
theorem dutiesKeptCompletes : Obligations.DutiesKeptCompletes := by
  refine fun s e rest hin => ⟨fun hd => ?_, fun hd t ht => ?_⟩
  · obtain ⟨t, ht, hrest, -⟩ := step_of_dutyKept hin hd
    exact ⟨t, ht, hrest⟩
  · exact Bool.false_ne_true (hd.symm.trans (dutyKept_of_step hin ht))

/-- A step that completes is its input's effect, and the input keeps the duties. -/
theorem stepEffect_of_input {s t : State} {e : Input} {rest : List Input} (hin : s.inputs = e :: rest)
    (h : step s = .next t) : dutyKept s e = true ∧ StepEffect s e t := by
  have hd := dutyKept_of_step hin h
  obtain ⟨t', ht', -, heffect⟩ := step_of_dutyKept hin hd
  cases h.symm.trans ht'
  exact ⟨hd, heffect⟩

/-- Everything a step can do when it completes: nothing where no input is to come, else the effect of its input. -/
theorem step_effect {s t : State} (h : step s = .next t) : t = s ∨ ∃ e, dutyKept s e = true ∧ StepEffect s e t := by
  obtain ⟨-, rfl⟩ | ⟨e, rest, hin, -⟩ := step_next_cases h
  · exact .inl rfl
  · exact .inr ⟨e, stepEffect_of_input hin h⟩

section Effect

variable {s t : State} {e : Input}

/-- A receiver that exists after an input: changed if the input acts on it, else as it was. -/
theorem StepEffect.rxs_get? (h : StepEffect s e t) {r : Nat} {rx : Receiver} (hr : s.rxs.get? r = some rx) :
    t.rxs.get? r = some (if e.receiver? = some r then e.rxChange rx else rx) := by
  rw [Pool.get?, h.rxs]
  exact actOn_getElem? hr

/-- A transmitter that exists after an input: changed if the input acts on it, else as it was. -/
theorem StepEffect.txs_get? (h : StepEffect s e t) {k : Nat} {tx : Transmitter} (hk : s.txs.get? k = some tx) :
    t.txs.get? k = some (if e.transmitter? = some k then e.txChange tx else tx) := by
  rw [Pool.get?, h.txs]
  exact actOn_getElem? hk

end Effect

@[simp] theorem byteChange_mru (r : Nat) (rx : Receiver) (v : Byte) (turn : ConsumerTurn) :
    (byteChange r rx v turn).mru = rx.mru := by
  unfold byteChange
  split
  · rfl
  · exact byteEffect_mru r rx v

@[simp] theorem rxChange_mru (e : Input) (rx : Receiver) : (e.rxChange rx).mru = rx.mru := by
  cases e <;> simp [Input.rxChange]

/-- Settles O55: an existing receiver stays in its place, and no change of it writes MRU. -/
theorem mruNeverChanges : Obligations.MruNeverChanges := by
  intro s t r rx h hr
  obtain rfl | ⟨e, -, heffect⟩ := step_effect h
  · exact ⟨rx, hr, rfl⟩
  · refine ⟨_, heffect.rxs_get? hr, ?_⟩
    split
    · exact rxChange_mru e rx
    · rfl

/-- Settles O56: a receiver the input does not act on is as it was. -/
theorem onlyOwnCallsChangeReceiver : Obligations.OnlyOwnCallsChangeReceiver := by
  intro s t e rest r rx hin h hother hr
  obtain ⟨-, heffect⟩ := stepEffect_of_input hin h
  rw [heffect.rxs_get? hr, if_neg hother]

/-- Settles O57: what an input shows is added at the end. -/
theorem outputsOnlyGrow : Obligations.OutputsOnlyGrow := by
  intro s t h
  obtain rfl | ⟨e, -, heffect⟩ := step_effect h
  · exact List.prefix_refl _
  · rw [heffect.outputs]
    exact List.prefix_append _ _

/-- An input shows nothing of a receiver or a transmitter it does not act on. -/
theorem shows_of_other (e : Input) (s : State) (k : Nat) :
    (e.receiver? ≠ some k → emissionsOf k (e.shows s) = []) ∧
    (e.transmitter? ≠ some k → writesOf k (e.shows s) = [] ∧ resultsOf k (e.shows s) = []) := by
  cases e with
  | rxByte r v turn =>
    cases hget : s.rxs.get? r with
    | none => simp [Input.shows, hget, emissionsOf, writesOf, resultsOf]
    | some rx =>
      obtain hs | ⟨-, -, -, hs⟩ := byteEffect_shows r rx v
      · simp [Input.shows, hget, hs, emissionsOf, writesOf, resultsOf]
      · simp [Input.shows, hget, hs, Input.receiver?]
  | answer m a =>
    cases a with
    | ioError => simp [Input.shows, Input.transmitter?]
    | ok =>
      cases hget : s.txs.get? m with
      | none => simp [Input.shows, hget, emissionsOf, writesOf, resultsOf]
      | some tx => obtain ⟨x, hs⟩ | hs := okEffect_shows m tx <;> simp [Input.shows, hget, hs, Input.transmitter?]
  | sendFrame m p => simp [Input.shows, Input.transmitter?]
  | crcUpdate c b => simp [Input.shows]
  | rxOverlap | consumerByte | consumerReturns | foreignWrite | newReceiver | newTransmitter =>
    exact ⟨fun _ => rfl, fun _ => ⟨rfl, rfl⟩⟩

/-- Settles O59: a transmitter the input does not act on stays and shows nothing; the only input that keeps the duties
and acts on an idle one, beside its own send, is a foreign write, which does nothing. -/
theorem onlyOwnCallsChangeTransmitter : Obligations.OnlyOwnCallsChangeTransmitter := by
  intro s t e rest k tx hin h hk hcase
  obtain ⟨hd, heffect⟩ := stepEffect_of_input hin h
  rw [heffect.txs_get? hk, heffect.outputs, writesOf_append, resultsOf_append]
  by_cases hother : e.transmitter? = some k
  · obtain ⟨hidle, hsend⟩ := hcase.resolve_left fun hne => hne hother
    cases e with
    | sendFrame m p =>
      cases hother
      exact absurd rfl (hsend p)
    | answer m a =>
      cases hother
      obtain ⟨tx', hget, hb⟩ := Pool.get?_any.1 hd
      cases hk.symm.trans hget
      exact absurd hb (by simp [hidle])
    | foreignWrite m x =>
      rw [if_pos hother]
      exact ⟨rfl, List.append_nil _, List.append_nil _⟩
    | rxByte | rxOverlap | consumerByte | consumerReturns | crcUpdate | newReceiver | newTransmitter => cases hother
  · obtain ⟨hw, hr⟩ := (shows_of_other e s k).2 hother
    rw [if_neg hother, hw, hr, List.append_nil, List.append_nil]
    exact ⟨rfl, rfl, rfl⟩

/-- The inputs that act on a busy transmitter and keep the duties are its answers. -/
theorem answer_of_busy {s : State} {e : Input} {k : Nat} {tx : Transmitter} (hd : dutyKept s e = true)
    (hk : s.txs.get? k = some tx) (hb : tx.busy = true) (he : e.transmitter? = some k) : ∃ a, e = .answer k a := by
  cases e with
  | answer m a =>
    cases he
    exact ⟨a, rfl⟩
  | sendFrame | foreignWrite =>
    cases he
    obtain ⟨tx', hget, hidle⟩ := Pool.get?_any.1 hd
    cases hk.symm.trans hget
    simp [hb] at hidle
  | rxByte | rxOverlap | consumerByte | consumerReturns | crcUpdate | newReceiver | newTransmitter => cases he

/-- Settles O43: any other input that completes acts elsewhere (`answer_of_busy`). -/
theorem unansweredSendWaits : Obligations.UnansweredSendWaits := by
  intro s t e rest k tx hin h hno hk hb
  refine onlyOwnCallsChangeTransmitter s t e rest k tx hin h hk (.inl fun he => ?_)
  obtain ⟨a, rfl⟩ := answer_of_busy (dutyKept_of_step hin h) hk hb he
  exact hno a rfl

end Sys2Proof.Machine
end

section
/-! The invariant of the machine (10_state sections 1 and 2): it holds after reset and every step keeps it. -/

namespace Sys2Proof.Machine

open Config

/-- RX.ON_BYTE keeps a receiver in no emission well formed, with either consumer: an emission is held on an accepted run
with no escape pending only. -/
theorem byteChange_wf {rx : Receiver} (h : rx.wf) (he : rx.emitting = false) (r : Nat) (v : Byte)
    (turn : ConsumerTurn) : (byteChange r rx v turn).wf := by
  unfold byteChange
  split
  next hheld =>
    obtain ⟨-, ha, hk⟩ := hheld
    obtain ⟨hmru, hlen, hbuf, hbelow, hwritten, -⟩ := h
    exact ⟨hmru, hlen, hbuf, hbelow, hwritten, fun _ => ⟨ha, (rxClass_eq_flag.1 hk).1⟩⟩
  · exact (byteEffect_wf h he v).1

theorem Receiver.create_wf {mru : Nat} (h : 1 ≤ mru) : (Receiver.create mru).wf :=
  ⟨h, h, List.Pairwise.nil, fun _ hc => absurd hc List.not_mem_nil, fun _ hi => absurd hi (Nat.not_lt_zero _), nofun⟩

theorem Transmitter.idle_wf : Transmitter.idle.wf := by decide

/-- An accepted send has offered the opening FLAG and has the rest of the frame to come. -/
theorem Transmitter.accepted_wf (p : List Byte) : (Transmitter.accepted p).wf := by
  rw [Transmitter.wf, if_pos (show (Transmitter.accepted p).busy = true from rfl)]
  refine ⟨fun hnil => ?_, ?_⟩
  · rw [Transmitter.accepted, encodeFrame_head] at hnil
    cases hnil
  · rw [Transmitter.accepted, encodeFrame]
    rfl

/-- A write answered `ok` keeps a busy transmitter well formed: it goes on, or is idle. -/
theorem okEffect_wf {tx : Transmitter} (k : Nat) (hb : tx.busy = true) (h : tx.wf) : (okEffect k tx).1.wf := by
  obtain ⟨hmore, hlast⟩ := okEffect_spec k tx hb h
  cases htail : tx.pending.tail with
  | nil =>
    rw [hlast htail]
    exact Transmitter.idle_wf
  | cons x xs =>
    obtain ⟨tx', hok, -, -, hwf⟩ := hmore x xs htail
    rw [hok]
    exact hwf

/-- An input that keeps the duties keeps the receiver it acts on well formed. -/
theorem rxChange_wf {s : State} {e : Input} {r : Nat} {rx : Receiver} (hd : dutyKept s e = true)
    (hr : e.receiver? = some r) (hget : s.rxs.get? r = some rx) (h : rx.wf) : (e.rxChange rx).wf := by
  cases e with
  | rxByte m v turn =>
    cases hr
    obtain ⟨rx', hget', he⟩ := Pool.get?_any.1 hd
    cases hget.symm.trans hget'
    exact byteChange_wf h (by simpa using he) r v turn
  | rxOverlap | consumerByte => cases hd
  | consumerReturns m => exact restart_done_wf h
  | sendFrame | answer | foreignWrite | crcUpdate | newReceiver | newTransmitter => cases hr

/-- An input that keeps the duties keeps the transmitter it acts on well formed. -/
theorem txChange_wf {s : State} {e : Input} {k : Nat} {tx : Transmitter} (hd : dutyKept s e = true)
    (hk : e.transmitter? = some k) (hget : s.txs.get? k = some tx) (h : tx.wf) : (e.txChange tx).wf := by
  cases e with
  | sendFrame m p => exact Transmitter.accepted_wf p
  | answer m a =>
    cases hk
    cases a with
    | ok =>
      obtain ⟨tx', hget', hb⟩ := Pool.get?_any.1 hd
      cases hget.symm.trans hget'
      exact okEffect_wf k hb h
    | ioError => exact Transmitter.idle_wf
  | foreignWrite m x => exact h
  | rxByte | rxOverlap | consumerByte | consumerReturns | crcUpdate | newReceiver | newTransmitter => cases hk

/-- The receivers an input that keeps the duties creates are well formed. -/
theorem newRxs_wf {s : State} {e : Input} (hd : dutyKept s e = true) : ∀ rx ∈ e.newRxs, rx.wf := by
  cases e with
  | newReceiver mru =>
    rintro rx hrx
    rw [List.mem_singleton.1 hrx]
    exact Receiver.create_wf (of_decide_eq_true hd)
  | rxByte | rxOverlap | consumerByte | consumerReturns | sendFrame | answer | foreignWrite | crcUpdate
  | newTransmitter => exact fun _ hrx => absurd hrx List.not_mem_nil

theorem newTxs_wf (e : Input) : ∀ tx ∈ e.newTxs, tx.wf := by
  cases e with
  | newTransmitter =>
    rintro tx htx
    rw [List.mem_singleton.1 htx]
    exact Transmitter.idle_wf
  | rxByte | rxOverlap | consumerByte | consumerReturns | sendFrame | answer | foreignWrite | crcUpdate
  | newReceiver => exact fun _ htx => absurd htx List.not_mem_nil

/-- Settles O54: a step is its input's effect, which changes an entry by `rxChange` or `txChange` or adds a new one. -/
theorem stepKeepsInvariant : Obligations.StepKeepsInvariant := by
  rintro s t ⟨hrxs, htxs⟩ h
  obtain rfl | ⟨e, hd, heffect⟩ := step_effect h
  · exact ⟨hrxs, htxs⟩
  · rw [State.inv, heffect.rxs, heffect.txs]
    exact ⟨actOn_forall hrxs (newRxs_wf hd) fun r rx => rxChange_wf hd,
      actOn_forall htxs (newTxs_wf e) fun k tx => txChange_wf hd⟩

/-- Settles O53: reset has one receiver as created and one idle transmitter. -/
theorem resetMeetsInvariant : Obligations.ResetMeetsInvariant := by
  refine ⟨fun rx hrx => ?_, fun tx htx => ?_⟩
  · rw [List.mem_singleton.1 hrx]
    exact Receiver.create_wf (by decide)
  · rw [List.mem_singleton.1 htx]
    exact Transmitter.idle_wf

/-- Settles O51: every field of the reset state is written out in its definition. -/
theorem resetValues : Obligations.ResetValues :=
  ⟨rfl, rfl, rfl, rfl, fun _ => rfl, rfl, rfl, rfl, rfl, rfl, rfl, rfl, rfl, rfl, rfl, rfl, rfl, rfl, rfl⟩

/-- Settles O50: a fetch with no input settles on the state it was given. -/
theorem idleWithoutInput : Obligations.IdleWithoutInput := by
  intro s hin
  rw [step, fetch, hin]

/-- Settles O52: a legal MRU keeps the duties, so the step is the creation's effect; MRU 0 is refused by name. -/
theorem newReceiverCreated : Obligations.NewReceiverCreated := by
  refine fun s mru rest hin => ⟨fun hmru => ?_, ?_⟩
  · exact ⟨_, _, step_newReceiver hin hmru, Pool.add_toList _ _, rfl, rfl, rfl, rfl, rfl, rfl, rfl⟩
  · rintro rfl
    simp [step, fetch_cons hin, fetchInput]

end Sys2Proof.Machine
end

section
/-! Inputs to different receivers and transmitters commute (20_memory section 5). -/

namespace Sys2Proof.Machine

variable {s t : State} {e e1 e2 : Input}

/-- The duties do not depend on the inputs to come. -/
theorem dutyKept_inputs (s : State) (e : Input) (es : List Input) :
    dutyKept { s with inputs := es } e = dutyKept s e := by
  cases e <;> rfl

/-- What an input shows does not depend on the inputs to come. -/
theorem shows_inputs (s : State) (e : Input) (es : List Input) : e.shows { s with inputs := es } = e.shows s := by
  cases e <;> rfl

theorem StepEffect.of_inputs {es : List Input} (h : StepEffect { s with inputs := es } e t) : StepEffect s e t :=
  ⟨h.rxs, h.txs, by rw [h.outputs, shows_inputs]⟩

/-- The receiver an input that keeps the duties acts on exists. -/
theorem receiver_lt_of_dutyKept (hd : dutyKept s e = true) {r : Nat} (hr : e.receiver? = some r) :
    r < s.rxs.toList.length := by
  cases e with
  | rxByte | consumerReturns =>
    cases hr
    exact Pool.lt_of_get?_any hd
  | rxOverlap | consumerByte => cases hd
  | sendFrame | answer | foreignWrite | crcUpdate | newReceiver | newTransmitter => cases hr

/-- The transmitter an input that keeps the duties acts on exists. -/
theorem transmitter_lt_of_dutyKept (hd : dutyKept s e = true) {k : Nat} (hk : e.transmitter? = some k) :
    k < s.txs.toList.length := by
  cases e with
  | sendFrame | answer | foreignWrite =>
    cases hk
    exact Pool.lt_of_get?_any hd
  | rxByte | rxOverlap | consumerByte | consumerReturns | crcUpdate | newReceiver | newTransmitter => cases hk

/-- Two inputs that act on no common receiver and on no common transmitter. -/
structure Input.Independent (e1 e2 : Input) : Prop where
  receiver : ∀ r, e1.receiver? = some r → e2.receiver? ≠ some r
  transmitter : ∀ k, e1.transmitter? = some k → e2.transmitter? ≠ some k

theorem Input.Independent.symm (h : e1.Independent e2) : e2.Independent e1 :=
  ⟨fun r h2 h1 => h.receiver r h1 h2, fun k h2 h1 => h.transmitter k h1 h2⟩

/-- After an independent input an input still keeps the duties and shows the same. -/
theorem StepEffect.independent (h : StepEffect s e1 t) (hind : e1.Independent e2) (hd : dutyKept s e2 = true) :
    dutyKept t e2 = true ∧ e2.shows t = e2.shows s := by
  have hrx {r : Nat} (hr : e2.receiver? = some r) : t.rxs.get? r = s.rxs.get? r := by
    obtain ⟨x, hx⟩ : ∃ x, s.rxs.get? r = some x := ⟨_, List.getElem?_eq_getElem (receiver_lt_of_dutyKept hd hr)⟩
    rw [h.rxs_get? hx, if_neg fun h1 => hind.receiver r h1 hr, hx]
  have htx {k : Nat} (hk : e2.transmitter? = some k) : t.txs.get? k = s.txs.get? k := by
    obtain ⟨x, hx⟩ : ∃ x, s.txs.get? k = some x := ⟨_, List.getElem?_eq_getElem (transmitter_lt_of_dutyKept hd hk)⟩
    rw [h.txs_get? hx, if_neg fun h1 => hind.transmitter k h1 hk, hx]
  cases e2 with
  | rxByte | consumerReturns => simpa [dutyKept, Input.shows, hrx rfl] using hd
  | rxOverlap | consumerByte => cases hd
  | sendFrame | foreignWrite => simpa [dutyKept, Input.shows, htx rfl] using hd
  | answer k a => cases a <;> simpa [dutyKept, Input.shows, htx rfl] using hd
  | crcUpdate | newReceiver | newTransmitter => exact ⟨hd, rfl⟩

/-- A run whose first input keeps the duties goes on from that input's effect. -/
theorem runOn_of_dutyKept (hd : dutyKept s e = true) (es : List Input) :
    ∃ t, StepEffect s e t ∧ s.runOn (e :: es) = t.runOn es := by
  obtain ⟨t, ht, hin, heffect⟩ :=
    step_of_dutyKept (s := { s with inputs := e :: es }) rfl ((dutyKept_inputs s e _).trans hd)
  exact ⟨t, heffect.of_inputs, runOn_cons ht hin⟩

/-- A run over two independent inputs that keep the duties: both effects, one after the other. -/
theorem runOn_pair (h1 : dutyKept s e1 = true) (h2 : dutyKept s e2 = true) (hind : e1.Independent e2) :
    ∃ t, s.runOn [e1, e2] = .next t ∧
      t.rxs.toList = actOn e2.receiver? e2.rxChange e2.newRxs
        (actOn e1.receiver? e1.rxChange e1.newRxs s.rxs.toList) ∧
      t.txs.toList = actOn e2.transmitter? e2.txChange e2.newTxs
        (actOn e1.transmitter? e1.txChange e1.newTxs s.txs.toList) ∧
      t.outputs = s.outputs ++ e1.shows s ++ e2.shows s := by
  obtain ⟨u, hu, hrun⟩ := runOn_of_dutyKept h1 [e2]
  obtain ⟨h2', hshows⟩ := hu.independent hind h2
  obtain ⟨t, ht, hrun'⟩ := runOn_of_dutyKept h2' []
  refine ⟨_, hrun.trans (hrun'.trans runOn_nil), ?_, ?_, ?_⟩
  · rw [← hu.rxs]
    exact ht.rxs
  · rw [← hu.txs]
    exact ht.txs
  · rw [← hu.outputs, ← hshows]
    exact ht.outputs

/-- Of two independent inputs at most one shows something of receiver `k`, and at most one of transmitter `k`. -/
theorem observations_comm (s : State) (hind : e1.Independent e2) (os : List Output) (k : Nat) :
    emissionsOf k (os ++ e1.shows s ++ e2.shows s) = emissionsOf k (os ++ e2.shows s ++ e1.shows s) ∧
    writesOf k (os ++ e1.shows s ++ e2.shows s) = writesOf k (os ++ e2.shows s ++ e1.shows s) ∧
    resultsOf k (os ++ e1.shows s ++ e2.shows s) = resultsOf k (os ++ e2.shows s ++ e1.shows s) := by
  obtain ⟨hrx1, htx1⟩ := shows_of_other e1 s k
  obtain ⟨hrx2, htx2⟩ := shows_of_other e2 s k
  simp only [emissionsOf_append, writesOf_append, resultsOf_append]
  refine ⟨?_, ?_⟩
  · by_cases h : e1.receiver? = some k
    · simp [hrx2 (hind.receiver k h)]
    · simp [hrx1 h]
  · by_cases h : e1.transmitter? = some k
    · simp [htx2 (hind.transmitter k h)]
    · simp [htx1 h]

/-- Creations commute unless both create a receiver: every new transmitter is the same. -/
theorem newRxs_comm (h : ∀ m m', e1 = .newReceiver m → e2 ≠ .newReceiver m') :
    e1.newRxs ++ e2.newRxs = e2.newRxs ++ e1.newRxs := by
  cases e1 with
  | newReceiver m =>
    cases e2 with
    | newReceiver m' => exact absurd rfl (h m m' rfl)
    | _ => rfl
  | _ => exact (List.append_nil _).symm

theorem newTxs_comm (e1 e2 : Input) : e1.newTxs ++ e2.newTxs = e2.newTxs ++ e1.newTxs := by
  cases e1 with
  | newTransmitter => cases e2 <;> rfl
  | _ => exact (List.append_nil _).symm

/-- Settles O58: `runOn_pair` in either order; the actions commute by `actOn_comm`, what is shown by
`observations_comm`. -/
theorem instancesCommute : Obligations.InstancesCommute := by
  intro s e1 e2 h1 h2 hrx htx hnew
  have hind : e1.Independent e2 := ⟨hrx, htx⟩
  obtain ⟨t12, hrun12, hrxs12, htxs12, hout12⟩ := runOn_pair h1 h2 hind
  obtain ⟨t21, hrun21, hrxs21, htxs21, hout21⟩ := runOn_pair h2 h1 hind.symm
  refine ⟨t12, t21, hrun12, hrun21, ?_, ?_, fun k => ?_⟩
  · rw [hrxs12, hrxs21]
    exact actOn_comm (fun _ => receiver_lt_of_dutyKept h1) (fun _ => receiver_lt_of_dutyKept h2) hrx (newRxs_comm hnew)
  · rw [htxs12, htxs21]
    exact actOn_comm (fun _ => transmitter_lt_of_dutyKept h1) (fun _ => transmitter_lt_of_dutyKept h2) htx
      (newTxs_comm e1 e2)
  · rw [hout12, hout21]
    exact observations_comm s hind s.outputs k

end Sys2Proof.Machine
end

section
/-! What the transmitter does with an answer (42_frame_transmitter R130 to R135): the next byte put or written, case by
case of the position in the send. -/

namespace Sys2Proof.Machine

open Config

variable {s : State} {k : Nat} {tx : Transmitter} {q : Pool Transmitter} {rest : List Input}

/-- The second byte of an escaped pair comes before everything else. -/
theorem advance_second {y : Byte} (h : tx.second = some y) :
    tx.answered.advance = .write y { tx.answered with second := none } := by
  simp [Transmitter.advance, h]

/-- The next payload byte is folded before it is put (42_frame_transmitter R134). -/
theorem advance_payload {b : Byte} {l : List Byte} (h : tx.second = none) (hs : tx.stage = .payload)
    (hl : tx.left = b :: l) :
    tx.answered.advance = .put b { tx.answered with crc := update tx.crc b, left := l } := by
  simp [Transmitter.advance, h, hs, hl]

/-- After the payload the FCS's low byte is put, the high byte is left. -/
theorem advance_payload_done (h : tx.second = none) (hs : tx.stage = .payload) (hl : tx.left = []) :
    tx.answered.advance =
      .put (lowByte (fcs tx.crc)) { tx.answered with stage := .fcs, left := [highByte (fcs tx.crc)] } := by
  simp [Transmitter.advance, h, hs, hl]

/-- FCS bytes are put unfolded. -/
theorem advance_fcs {b : Byte} {l : List Byte} (h : tx.second = none) (hs : tx.stage = .fcs) (hl : tx.left = b :: l) :
    tx.answered.advance = .put b { tx.answered with left := l } := by
  simp [Transmitter.advance, h, hs, hl]

/-- After the FCS the closing FLAG is written. -/
theorem advance_fcs_done (h : tx.second = none) (hs : tx.stage = .fcs) (hl : tx.left = []) :
    tx.answered.advance = .write FLAG { tx.answered with stage := .closing } := by
  simp [Transmitter.advance, h, hs, hl]

theorem okEffect_put {b : Byte} {u : Transmitter} (h : tx.answered.advance = .put b u) :
    okEffect k tx = putEffect k u b := by
  rw [okEffect, h]

theorem okEffect_write {x : Byte} {u : Transmitter} (h : tx.answered.advance = .write x u) :
    okEffect k tx = (u, [.write k x]) := by
  rw [okEffect, h]

@[simp] theorem putEffect_crc (k : Nat) (tx : Transmitter) (b : Byte) : (putEffect k tx b).1.crc = tx.crc := by
  unfold putEffect
  split <;> rfl

@[simp] theorem putEffect_left (k : Nat) (tx : Transmitter) (b : Byte) : (putEffect k tx b).1.left = tx.left := by
  unfold putEffect
  split <;> rfl

/-- A write answered `ok` that leaves a byte to put is PUT of that byte, decoded, in the state it leaves. -/
theorem step_answerOk_put {b : Byte} {u : Transmitter} (h : s.inputs = .answer k .ok :: rest)
    (hq : s.txs.select k = some q) (hb : q.cur.busy = true) (ha : q.cur.answered.advance = .put b u) :
    step s = exec (decodeTxb b) { s with inputs := rest, txs := { q with cur := u } } := by
  simp [step, fetch_cons h, fetchInput, withTransmitter, hq, fetchAnswer, fetchAnsweredOk, State.tx, hb, ha,
    State.setTx]

/-- Settles O37: an idle transmitter takes the accepting branch. -/
theorem sendFrameAccepted : Obligations.SendFrameAccepted :=
  fun _ => execTxSendFrame_of_idle

/-- Settles O38: the decoder's three rows, PUT's two forms, and `advance_second` for the second write of a pair. -/
theorem putOffersStuffedByte : Obligations.PutOffersStuffedByte := by
  refine ⟨fun b => ⟨?_, ?_, fun hesc hflag => ?_⟩, fun s b => rfl, fun s => ⟨rfl, rfl⟩, ?_⟩
  · rintro rfl
    rfl
  · rintro rfl
    rfl
  · rw [decodeTxb, if_neg hesc, if_neg hflag]
  · intro s k rest q y hq hb hy
    refine ⟨fun hin => ?_, fun hin => step_answerError hin hq hb⟩
    rw [step_answerOk hin hq hb, okEffect_write (advance_second hy)]
    rfl

/-- Outside the payload bytes an answer leaves the CRC (42_frame_transmitter R134). -/
theorem okEffect_crc (k : Nat) (h : tx.second ≠ none ∨ tx.stage = .fcs ∨ tx.stage = .payload ∧ tx.left = []) :
    (okEffect k tx).1.crc = tx.crc := by
  cases hsecond : tx.second with
  | some y => rw [okEffect_write (advance_second hsecond), answered_crc]
  | none =>
    obtain hs | hs | ⟨hs, hl⟩ := h
    · exact absurd hsecond hs
    · cases hl : tx.left with
      | nil => rw [okEffect_write (advance_fcs_done hsecond hs hl), answered_crc]
      | cons b l => rw [okEffect_put (advance_fcs hsecond hs hl), putEffect_crc, answered_crc]
    · rw [okEffect_put (advance_payload_done hsecond hs hl), putEffect_crc, answered_crc]

/-- Settles O40: a payload byte is folded by `advance_payload`, `okEffect_crc` is every other position. -/
theorem sendCrcAccumulation : Obligations.SendCrcAccumulation := by
  refine ⟨fun s p hb => ⟨_, execTxSendFrame_of_idle p hb, rfl⟩, fun s k rest q hin hq hb => ⟨?_, fun h => ?_⟩⟩
  · intro b l hsecond hs hl
    have hok := okEffect_put (k := k) (advance_payload hsecond hs hl)
    exact ⟨_, step_answerOk hin hq hb, by rw [State.tx, hok, putEffect_crc], by rw [State.tx, hok, putEffect_left]⟩
  · exact ⟨_, step_answerOk hin hq hb, okEffect_crc k h⟩

/-- Settles O39: `step_answerError` and `okEffect_spec` are the two answers; any other input that completes leaves the
busy transmitter's writes. -/
theorem answerMovesSend : Obligations.AnswerMovesSend := by
  intro s k rest q hq hb
  have hget := (Pool.select_some hq).2.2
  refine ⟨fun hin => ⟨_, rfl, rfl, step_answerError hin hq hb⟩, fun hin hwf => ?_, fun t hhead h => ?_⟩
  · obtain ⟨hmore, hlast⟩ := okEffect_spec k q.cur hb hwf
    rw [step_answerOk hin hq hb]
    refine ⟨fun x xs htail => ?_, fun htail => ⟨_, rfl, rfl, by rw [hlast htail]⟩⟩
    obtain ⟨tx, hok, hbusy, hpending, hwf'⟩ := hmore x xs htail
    exact ⟨tx, hbusy, hpending, hwf', by rw [hok]⟩
  · obtain ⟨-, rfl⟩ | ⟨e, rest', hin, -⟩ := step_next_cases h
    · rfl
    · by_cases he : ∃ a, e = .answer k a
      · obtain ⟨a, rfl⟩ := he
        cases a with
        | ok => exact absurd (by rw [hin]; rfl) hhead
        | ioError =>
          rw [step_answerError hin hq hb] at h
          cases h
          simp
      · exact (unansweredSendWaits s t e rest' k q.cur hin h (fun a ha => he ⟨a, ha⟩) hget hb).2.1

/-- Settles O48: each input's step lemma; an `ok` is PUT of the byte `advance` names. -/
theorem stepRunsDecodedInstruction : Obligations.StepRunsDecodedInstruction := by
  refine fun s rest => ⟨fun r v turn q hin hq => step_rxByte hin hq, fun k p q hin hq => step_sendFrame hin hq,
    fun c b hin => step_crcUpdate hin,
    fun k q hin hq hb hsecond => ⟨fun b l hs hl => ?_, fun hs hl => ?_, fun b l hs hl => ?_⟩⟩
  · exact step_answerOk_put hin hq hb (advance_payload hsecond hs hl)
  · exact step_answerOk_put hin hq hb (advance_payload_done hsecond hs hl)
  · exact step_answerOk_put hin hq hb (advance_fcs hsecond hs hl)

/-- Settles O49: a placed RXW word is the next byte and its flag, a placed TXB byte what the next `ok` puts. -/
theorem placedWordRuns : Obligations.PlacedWordRuns := by
  refine ⟨fun s w => ?_, fun s b => ?_⟩
  · have hplace : s.withFetchWord 9 w.toNat = placeRxWord s w := by simp [State.withFetchWord]
    rw [hplace, step_rxByte (s := placeRxWord s w) rfl (Pool.select_here _)]
    exact exec_rxOnByte_of_rxClass _ rfl rfl
  · have hplace : s.withFetchWord 8 b.toNat = placeTxByte s b := by simp [State.withFetchWord]
    rw [hplace]
    have hadvance := advance_fcs (tx := (placeTxByte s b).tx) (b := b) (l := []) rfl rfl rfl
    exact step_answerOk_put (s := placeTxByte s b) (q := (placeTxByte s b).txs) rfl (Pool.select_here _) rfl hadvance

end Sys2Proof.Machine
end

section
/-! Instructions as a whole (60_exceptions section 3, 20_memory section 5): which can fault, and what the transmitter's
leave unchanged. -/

namespace Sys2Proof.Machine

open Config

/-- Every instruction completes but a second send and an overlapping byte, which are the usage faults. -/
theorem exec_cases (i : Instr) (s : State) :
    (∃ t, exec i s = .next t) ∨
    (∃ p, i = .txSendFrame p) ∧ s.tx.busy = true ∧ exec i s = .fault .concurrentSend ∨
    (∃ v, i = .rxOnByte v) ∧ s.rx.emitting = true ∧ exec i s = .fault .concurrentRx := by
  cases i with
  | rxFlag => exact .inl (exec_rxClass_completes .flag s)
  | rxFlagAbort => exact .inl ⟨_, exec_rxFlagAbort s⟩
  | rxEsc => exact .inl ⟨_, exec_rxEsc s⟩
  | rxEscData v => exact .inl ⟨_, exec_rxEscData v s⟩
  | rxData v => exact .inl ⟨_, exec_rxData v s⟩
  | txPutEscapedEsc | txPutEscapedFlag | txPutLiteral | crcUpdate => exact .inl ⟨_, rfl⟩
  | rxOnByte v =>
    cases he : s.rx.emitting with
    | false => exact .inl ⟨_, execRxOnByte_free he⟩
    | true => exact .inr (.inr ⟨⟨v, rfl⟩, rfl, execRxOnByte_of_emitting v he⟩)
  | txSendFrame p =>
    cases hb : s.tx.busy with
    | false => exact .inl ⟨_, execTxSendFrame_of_idle p hb⟩
    | true => exact .inr (.inl ⟨⟨p, rfl⟩, rfl, execTxSendFrame_of_busy p hb⟩)

/-- Settles O46: `exec_cases` lists every outcome. -/
theorem onlyUsageFaults : Obligations.OnlyUsageFaults := by
  intro i s
  obtain ⟨t, h⟩ | ⟨hi, hb, h⟩ | ⟨hi, he, h⟩ := exec_cases i s
  · rw [h]
    exact ⟨nofun, nofun⟩
  · rw [h]
    refine ⟨fun f hf => ?_, nofun⟩
    cases hf
    exact .inl ⟨hi, hb, rfl⟩
  · rw [h]
    refine ⟨fun f hf => ?_, nofun⟩
    cases hf
    exact .inr ⟨hi, he, rfl⟩

/-- Settles O44: each of these instructions writes the addressed transmitter at most, PUT its `second` only, and adds
one output. -/
theorem transmitterInstrFrame : Obligations.TransmitterInstrFrame := by
  intro i s t hi h
  obtain ⟨p, rfl⟩ | ⟨b, rfl⟩ | rfl | rfl | ⟨c, b, rfl⟩ := hi
  · change execTxSendFrame p s = .next t at h
    cases hb : s.tx.busy with
    | true => cases (execTxSendFrame_of_busy p hb).symm.trans h
    | false =>
      rw [execTxSendFrame_of_idle p hb] at h
      cases h
      exact ⟨rfl, rfl, rfl, rfl, rfl, List.prefix_append _ _, fun hno => absurd rfl (hno p), nofun⟩
  · cases h
    exact ⟨rfl, rfl, rfl, rfl, rfl, List.prefix_append _ _, fun _ => ⟨rfl, rfl, rfl, rfl, rfl⟩, fun _ => rfl⟩
  · cases h
    exact ⟨rfl, rfl, rfl, rfl, rfl, List.prefix_append _ _, fun _ => ⟨rfl, rfl, rfl, rfl, rfl⟩, nofun⟩
  · cases h
    exact ⟨rfl, rfl, rfl, rfl, rfl, List.prefix_append _ _, fun _ => ⟨rfl, rfl, rfl, rfl, rfl⟩, nofun⟩
  · cases h
    exact ⟨rfl, rfl, rfl, rfl, rfl, List.prefix_append _ _, fun _ => ⟨rfl, rfl, rfl, rfl, rfl⟩, fun _ => rfl⟩

end Sys2Proof.Machine
end

section
/-! Whole sends (42_frame_transmitter R131, R133, section 3): the bytes offered as the transport answers. -/

namespace Sys2Proof.Machine

open Config

variable {s : State} {k : Nat} {tx : Transmitter}

/-- A transmitter that is sending with these bytes pending, the first one offered. -/
def State.Sending (s : State) (k : Nat) (pending : List Byte) : Prop :=
  ∃ tx, s.txs.get? k = some tx ∧ tx.busy = true ∧ tx.wf ∧ tx.pending = pending

/-- A run of one step. -/
theorem runOn_singleton {t : State} {e : Input} (h : step { s with inputs := [e] } = .next t) (ht : t.inputs = []) :
    s.runOn [e] = .next t := by
  rw [runOn_cons h ht, runOn_nil, ← ht]

/-- Answered `ok`, the send offers the next pending byte. -/
theorem runOn_answerOk {x y : Byte} {ys : List Byte} (h : s.Sending k (x :: y :: ys)) (es : List Input) :
    ∃ t : State, s.runOn (.answer k .ok :: es) = t.runOn es ∧ t.Sending k (y :: ys) ∧
      t.outputs = s.outputs ++ [.write k y] ∧ t.rxs = s.rxs := by
  obtain ⟨tx, hget, hb, hwf, hpending⟩ := h
  obtain ⟨q, hq, rfl, -, rfl⟩ := Pool.select_of_get? hget
  have htail : q.cur.pending.tail = y :: ys := by rw [hpending, List.tail_cons]
  obtain ⟨tx', hok, hb', hpending', hwf'⟩ := (okEffect_spec q.here q.cur hb hwf).1 y ys htail
  have hstep := step_answerOk (s := { s with inputs := .answer q.here .ok :: es }) rfl hq hb
  rw [hok] at hstep
  exact ⟨_, runOn_cons hstep rfl, ⟨tx', Pool.get?_here { q with cur := tx' }, hb', hwf', hpending'⟩, rfl, rfl⟩

/-- The last pending byte answered `ok`, the send ends with Success. -/
theorem runOn_answerOk_last {x : Byte} (h : s.Sending k [x]) :
    ∃ t : State, s.runOn [.answer k .ok] = .next t ∧ t.txs.get? k = some Transmitter.idle ∧
      t.outputs = s.outputs ++ [.result k .success] ∧ t.rxs = s.rxs := by
  obtain ⟨tx, hget, hb, hwf, hpending⟩ := h
  obtain ⟨q, hq, rfl, -, rfl⟩ := Pool.select_of_get? hget
  have hok := (okEffect_spec q.here q.cur hb hwf).2 (by rw [hpending, List.tail_cons])
  have hstep := step_answerOk (s := { s with inputs := [.answer q.here .ok] }) rfl hq hb
  rw [hok] at hstep
  exact ⟨_, runOn_singleton hstep rfl, Pool.get?_here { q with cur := Transmitter.idle }, rfl, rfl⟩

/-- A pending byte answered `io_error`, the send ends with TransportFailure. -/
theorem runOn_answerError {pending : List Byte} (h : s.Sending k pending) :
    ∃ t : State, s.runOn [.answer k .ioError] = .next t ∧ t.txs.get? k = some Transmitter.idle ∧
      t.outputs = s.outputs ++ [.result k .transportFailure] ∧ t.rxs = s.rxs := by
  obtain ⟨tx, hget, hb, -, -⟩ := h
  obtain ⟨q, hq, rfl, -, rfl⟩ := Pool.select_of_get? hget
  have hstep := step_answerError (s := { s with inputs := [.answer q.here .ioError] }) rfl hq hb
  exact ⟨_, runOn_singleton hstep rfl, Pool.get?_here { q with cur := Transmitter.idle }, rfl, rfl⟩

/-- With `n` more writes answered `ok`, fewer than are pending, the next `n` pending bytes are offered. -/
theorem runOn_answersOk {x : Byte} {xs : List Byte} (n : Nat) (es : List Input) (h : s.Sending k (x :: xs))
    (hn : n ≤ xs.length) :
    ∃ t : State, s.runOn (List.replicate n (.answer k .ok) ++ es) = t.runOn es ∧ t.Sending k ((x :: xs).drop n) ∧
      t.outputs = s.outputs ++ (xs.take n).map (.write k) ∧ t.rxs = s.rxs := by
  induction n generalizing s x xs with
  | zero => exact ⟨s, rfl, h, (List.append_nil _).symm, rfl⟩
  | succ n ih =>
    cases xs with
    | nil => cases hn
    | cons y ys =>
      obtain ⟨u, hu, hsending, hout, hrxs⟩ := runOn_answerOk h (List.replicate n (.answer k .ok) ++ es)
      obtain ⟨t, ht, hsending', hout', hrxs'⟩ := ih hsending (Nat.le_of_succ_le_succ hn)
      refine ⟨t, hu.trans ht, hsending', ?_, hrxs'.trans hrxs⟩
      rw [hout', hout, List.append_assoc]
      rfl

/-- A send accepted by an idle transmitter: the whole frame is pending, its opening FLAG is offered. -/
theorem runOn_sendFrame (p : List Byte) (hget : s.txs.get? k = some tx) (hb : tx.busy = false) (es : List Input) :
    ∃ t : State, s.runOn (.sendFrame k p :: es) = t.runOn es ∧ t.Sending k (encodeFrame p) ∧
      t.outputs = s.outputs ++ [.write k FLAG] ∧ t.rxs = s.rxs := by
  obtain ⟨q, hq, rfl, -, rfl⟩ := Pool.select_of_get? hget
  have hstep := (step_sendFrame (s := { s with inputs := .sendFrame q.here p :: es }) rfl hq).trans
    (execTxSendFrame_of_idle p hb)
  exact ⟨_, runOn_cons hstep rfl,
    ⟨_, Pool.get?_here { q with cur := Transmitter.accepted p }, rfl, Transmitter.accepted_wf p, rfl⟩, rfl, rfl⟩

/-- A send accepted by an idle transmitter, with `n` writes answered `ok`, fewer than all: the first `n + 1` bytes of
the frame are offered, and the bytes after the answered ones are pending (42_frame_transmitter R131, R132). -/
theorem runOn_sendAnswered {p : List Byte} {n : Nat} (hget : s.txs.get? k = some tx) (hb : tx.busy = false)
    (hn : n < (encodeFrame p).length) (es : List Input) :
    ∃ t : State, s.runOn (sendAnswered k p n ++ es) = t.runOn es ∧ t.Sending k ((encodeFrame p).drop n) ∧
      t.outputs = s.outputs ++ ((encodeFrame p).take (n + 1)).map (.write k) ∧ t.rxs = s.rxs := by
  obtain ⟨u, hu, hsending, hout, hrxs⟩ := runOn_sendFrame p hget hb (List.replicate n (.answer k .ok) ++ es)
  rw [encodeFrame_head] at hsending hn ⊢
  obtain ⟨t, ht, hsending', hout', hrxs'⟩ := runOn_answersOk n es hsending (Nat.le_of_lt_succ hn)
  refine ⟨t, hu.trans ht, hsending', ?_, hrxs'.trans hrxs⟩
  rw [hout', hout, List.append_assoc]
  rfl

/-- Settles O41: `runOn_sendAnswered` up to the closing FLAG, `runOn_answerOk_last` for its answer. -/
theorem sendWritesWholeFrame : Obligations.SendWritesWholeFrame := by
  intro s k tx p hget hb
  refine ⟨fun n hn => ?_, ?_, ?_⟩
  · obtain ⟨t, ht, hsending, hout, hrxs⟩ := runOn_sendAnswered hget hb hn []
    obtain ⟨tx', hget', hb', -, hpending⟩ := hsending
    rw [List.append_nil, runOn_nil] at ht
    exact ⟨_, tx', ht, hout, hget', hb', hpending, hrxs⟩
  · obtain ⟨m, hm⟩ : ∃ m, (encodeFrame p).length = m + 1 := ⟨_, by rw [encodeFrame_head]; rfl⟩
    obtain ⟨u, hu, hsending, hout, hrxs⟩ := runOn_sendAnswered hget hb (p := p) (n := m) (by omega) [.answer k .ok]
    obtain ⟨x, hx⟩ : ∃ x, (encodeFrame p).drop m = [x] := List.length_eq_one_iff.1 (by rw [List.length_drop]; omega)
    rw [hx] at hsending
    obtain ⟨t, ht, hidle, hout', hrxs'⟩ := runOn_answerOk_last hsending
    have hinputs : sendAnswered k p (m + 1) = sendAnswered k p m ++ [.answer k .ok] := by
      rw [sendAnswered, List.replicate_succ', sendAnswered, List.cons_append]
    rw [← hm, List.take_length] at hout
    exact ⟨t, by rw [hm, hinputs, hu, ht], by rw [hout', hout], hidle, hrxs'.trans hrxs⟩
  · rw [encodeFrame, stuffFcs, stuffAll, ← List.append_assoc]
    rfl

/-- Settles O42: `runOn_sendAnswered` up to the failed write, then `runOn_answerError`. -/
theorem failedWriteCutsFrame : Obligations.FailedWriteCutsFrame := by
  intro s k j tx p hget hb hj
  obtain ⟨u, hu, hsending, hout, hrxs⟩ := runOn_sendAnswered hget hb hj [.answer k .ioError]
  obtain ⟨t, ht, hidle, hout', hrxs'⟩ := runOn_answerError hsending
  exact ⟨t, hu.trans ht, by rw [hout', hout], hidle, hrxs'.trans hrxs⟩

end Sys2Proof.Machine
end
